-- ==== Sys2Proof/Word.lean ====
section
/-! DEFINITION. The bit-vector types of the machine: bytes, half-words, words and register indices
(00_scope.md R6, R7). Arithmetic on `Word` is Lean's `BitVec` arithmetic, modulo 2^32 (R7); `s(v)` is
`BitVec.toInt` and `u(v)` is `BitVec.toNat` (R6). -/

namespace Sys2Proof

/-- One byte of memory. -/
abbrev Byte := BitVec 8

/-- A half-word, 2 bytes (20_memory.md R42). -/
abbrev Half := BitVec 16

/-- A register, address or instruction word, 32 bits (00_scope.md R6). -/
abbrev Word := BitVec 32

/-- A general-register index, the unsigned 5-bit number of an rd, rs1 or rs2 field (30_encoding.md R78). -/
abbrev RegIdx := BitVec 5

end Sys2Proof
end

