-- ==== Sys2Proof/Machine/Flags.lean ====
section
/-! DEFINITION. Comparisons. The hardware has no flags or condition codes (10_state.md R34): branches
compare two registers directly (42_control_transfer.md R112) and the set-less-than instructions write a
comparison into a register. Signed comparison is on `s(v)`, unsigned on `u(v)` (00_scope.md R7). -/

namespace Sys2Proof.Machine

/-- `a <s b` (00_scope.md R7). -/
def ltSigned (a b : Word) : Bool := decide (a.toInt < b.toInt)

/-- `a <u b` (00_scope.md R7). -/
def ltUnsigned (a b : Word) : Bool := decide (a.toNat < b.toNat)

/-- The condition of BEQ (42_control_transfer.md R113). -/
def condEq (a b : Word) : Bool := a == b

/-- The condition of BNE (42_control_transfer.md R114). -/
def condNe (a b : Word) : Bool := a != b

/-- The condition of BLT (42_control_transfer.md R115). -/
def condLt (a b : Word) : Bool := ltSigned a b

/-- The condition of BGE, `a >=s b`, the negation of `a <s b` (42_control_transfer.md R116). -/
def condGe (a b : Word) : Bool := !ltSigned a b

/-- The condition of BLTU (42_control_transfer.md R117). -/
def condLtu (a b : Word) : Bool := ltUnsigned a b

/-- The condition of BGEU, `a >=u b` (42_control_transfer.md R118). -/
def condGeu (a b : Word) : Bool := !ltUnsigned a b

/-- `c ? 1 : 0`, what a set-less-than instruction writes (44_alu_immediate.md R151). -/
def wordOfBool (c : Bool) : Word := if c then 1 else 0

end Sys2Proof.Machine
end

