-- ==== Sys2Proof/Machine/Arithmetic.lean ====
section
/-! DEFINITION. The arithmetic of the register-immediate, register-register and multiply/divide
instructions on two operand values. Products and quotients are computed on the exact integers `s(v)` and
`u(v)` before the stated bits are taken (46_muldiv.md opening). -/

namespace Sys2Proof.Machine

/-! ## Shifts and comparisons (00_scope.md R7) -/

/-- `a << k`, zeros shifted in. -/
def shiftLeft (a : Word) (k : BitVec 5) : Word := a <<< k.toNat

/-- `a >>u k`, zeros shifted in. -/
def shiftRightLogical (a : Word) (k : BitVec 5) : Word := a >>> k.toNat

/-- `a >>s k`, copies of bit 31 shifted in. -/
def shiftRightArithmetic (a : Word) (k : BitVec 5) : Word := a.sshiftRight k.toNat

/-- `(a <s b) ? 1 : 0`. -/
def setLessThanSigned (a b : Word) : Word := wordOfBool (ltSigned a b)

/-- `(a <u b) ? 1 : 0`. -/
def setLessThanUnsigned (a b : Word) : Word := wordOfBool (ltUnsigned a b)

/-! ## Multiply (46_muldiv.md R190 to R193) -/

/-- `p[31:0]` of an exact product p. -/
def productLow (p : Int) : Word := (BitVec.ofInt 64 p).extractLsb' 0 32

/-- `p[63:32]` of an exact product p, as a 64-bit two's-complement value. -/
def productHigh (p : Int) : Word := (BitVec.ofInt 64 p).extractLsb' 32 32

/-- MUL (R190). -/
def mulLow (a b : Word) : Word := productLow (a.toInt * b.toInt)

/-- MULH, signed by signed (R191). -/
def mulHighSigned (a b : Word) : Word := productHigh (a.toInt * b.toInt)

/-- MULHSU, signed a by unsigned b (R192). -/
def mulHighSignedUnsigned (a b : Word) : Word := productHigh (a.toInt * (b.toNat : Int))

/-- MULHU, unsigned by unsigned (R193). -/
def mulHighUnsigned (a b : Word) : Word := productHigh ((a.toNat : Int) * (b.toNat : Int))

/-! ## Divide and remainder (46_muldiv.md R194 to R197) -/

/-- `a = -2^31 and b = -1`, the overflow of a signed division. -/
def divisionOverflows (a b : Word) : Bool := a == 0x80000000#32 && b == 0xFFFFFFFF#32

/-- The quotient rounded toward zero, `sign(a)·sign(b)·floor(|a| / |b|)` (R194). -/
def quotientTowardZero (a b : Int) : Int := a.sign * b.sign * ((a.natAbs / b.natAbs : Nat) : Int)

/-- DIV (R194): all ones by zero, the dividend on overflow, else rounded toward zero. -/
def divSigned (a b : Word) : Word :=
  if b = 0 then 0xFFFFFFFF
  else if divisionOverflows a b then 0x80000000
  else BitVec.ofInt 32 (quotientTowardZero a.toInt b.toInt)

/-- DIVU (R195): all ones by zero, else the floor. -/
def divUnsigned (a b : Word) : Word :=
  if b = 0 then 0xFFFFFFFF
  else BitVec.ofNat 32 (a.toNat / b.toNat)

/-- REM (R196): the dividend by zero, 0 on overflow, else `a - b·q`. -/
def remSigned (a b : Word) : Word :=
  if b = 0 then a
  else if divisionOverflows a b then 0
  else BitVec.ofInt 32 (a.toInt - b.toInt * quotientTowardZero a.toInt b.toInt)

/-- REMU (R197): the dividend by zero, else the remainder. -/
def remUnsigned (a b : Word) : Word :=
  if b = 0 then a
  else BitVec.ofNat 32 (a.toNat % b.toNat)

end Sys2Proof.Machine
end

