-- ==== Sys2Proof/Syntax.lean ====
section
/-! DEFINITION. The syntax of the 47 instructions: one constructor per row of spec/opcode_table.json
(30_encoding.md R80 Table 30-4), its operands those of the row's format (R72), in the operand order of
R85 Table 30-5. Immediates are held as the format gives them: 12 bits (I, S), the value of inst[31:12]
(U), and the byte offset of 13 (B) or 21 (J) bits whose bit 0 the encoding does not hold. -/

namespace Sys2Proof

/-- The instructions of the hardware (00_scope.md R2). -/
inductive Instr where
  /-- LUI: load upper immediate (R100). -/
  | lui (rd : RegIdx) (imm : BitVec 20)
  /-- AUIPC: add upper immediate to pc (R101). -/
  | auipc (rd : RegIdx) (imm : BitVec 20)
  /-- JAL: jump and link (R110). -/
  | jal (rd : RegIdx) (offset : BitVec 21)
  /-- JALR: jump and link register (R111). -/
  | jalr (rd rs1 : RegIdx) (imm : BitVec 12)
  /-- BEQ: branch if equal (R113). -/
  | beq (rs1 rs2 : RegIdx) (offset : BitVec 13)
  /-- BNE: branch if not equal (R114). -/
  | bne (rs1 rs2 : RegIdx) (offset : BitVec 13)
  /-- BLT: branch if less than, signed (R115). -/
  | blt (rs1 rs2 : RegIdx) (offset : BitVec 13)
  /-- BGE: branch if greater or equal, signed (R116). -/
  | bge (rs1 rs2 : RegIdx) (offset : BitVec 13)
  /-- BLTU: branch if less than, unsigned (R117). -/
  | bltu (rs1 rs2 : RegIdx) (offset : BitVec 13)
  /-- BGEU: branch if greater or equal, unsigned (R118). -/
  | bgeu (rs1 rs2 : RegIdx) (offset : BitVec 13)
  /-- LB: load byte, sign-extended (R132). -/
  | lb (rd rs1 : RegIdx) (imm : BitVec 12)
  /-- LH: load half-word, sign-extended (R133). -/
  | lh (rd rs1 : RegIdx) (imm : BitVec 12)
  /-- LW: load word (R134). -/
  | lw (rd rs1 : RegIdx) (imm : BitVec 12)
  /-- LBU: load byte, zero-extended (R135). -/
  | lbu (rd rs1 : RegIdx) (imm : BitVec 12)
  /-- LHU: load half-word, zero-extended (R136). -/
  | lhu (rd rs1 : RegIdx) (imm : BitVec 12)
  /-- SB: store byte (R138). -/
  | sb (rs2 rs1 : RegIdx) (imm : BitVec 12)
  /-- SH: store half-word (R139). -/
  | sh (rs2 rs1 : RegIdx) (imm : BitVec 12)
  /-- SW: store word (R140). -/
  | sw (rs2 rs1 : RegIdx) (imm : BitVec 12)
  /-- ADDI: add immediate (R150). -/
  | addi (rd rs1 : RegIdx) (imm : BitVec 12)
  /-- SLTI: set if less than immediate, signed (R151). -/
  | slti (rd rs1 : RegIdx) (imm : BitVec 12)
  /-- SLTIU: set if less than immediate, unsigned (R152). -/
  | sltiu (rd rs1 : RegIdx) (imm : BitVec 12)
  /-- XORI: exclusive or immediate (R153). -/
  | xori (rd rs1 : RegIdx) (imm : BitVec 12)
  /-- ORI: or immediate (R154). -/
  | ori (rd rs1 : RegIdx) (imm : BitVec 12)
  /-- ANDI: and immediate (R155). -/
  | andi (rd rs1 : RegIdx) (imm : BitVec 12)
  /-- SLLI: shift left logical immediate (R156). -/
  | slli (rd rs1 : RegIdx) (shamt : BitVec 5)
  /-- SRLI: shift right logical immediate (R157). -/
  | srli (rd rs1 : RegIdx) (shamt : BitVec 5)
  /-- SRAI: shift right arithmetic immediate (R158). -/
  | srai (rd rs1 : RegIdx) (shamt : BitVec 5)
  /-- ADD: add (R170). -/
  | add (rd rs1 rs2 : RegIdx)
  /-- SUB: subtract (R171). -/
  | sub (rd rs1 rs2 : RegIdx)
  /-- SLL: shift left logical (R172). -/
  | sll (rd rs1 rs2 : RegIdx)
  /-- SLT: set if less than, signed (R173). -/
  | slt (rd rs1 rs2 : RegIdx)
  /-- SLTU: set if less than, unsigned (R174). -/
  | sltu (rd rs1 rs2 : RegIdx)
  /-- XOR: exclusive or (R175). -/
  | xor (rd rs1 rs2 : RegIdx)
  /-- SRL: shift right logical (R176). -/
  | srl (rd rs1 rs2 : RegIdx)
  /-- SRA: shift right arithmetic (R177). -/
  | sra (rd rs1 rs2 : RegIdx)
  /-- OR: or (R178). -/
  | or (rd rs1 rs2 : RegIdx)
  /-- AND: and (R179). -/
  | and (rd rs1 rs2 : RegIdx)
  /-- MUL: multiply, low half (R190). -/
  | mul (rd rs1 rs2 : RegIdx)
  /-- MULH: multiply high, signed by signed (R191). -/
  | mulh (rd rs1 rs2 : RegIdx)
  /-- MULHSU: multiply high, signed rs1 by unsigned rs2 (R192). -/
  | mulhsu (rd rs1 rs2 : RegIdx)
  /-- MULHU: multiply high, unsigned by unsigned (R193). -/
  | mulhu (rd rs1 rs2 : RegIdx)
  /-- DIV: divide, signed (R194). -/
  | div (rd rs1 rs2 : RegIdx)
  /-- DIVU: divide, unsigned (R195). -/
  | divu (rd rs1 rs2 : RegIdx)
  /-- REM: remainder, signed (R196). -/
  | rem (rd rs1 rs2 : RegIdx)
  /-- REMU: remainder, unsigned (R197). -/
  | remu (rd rs1 rs2 : RegIdx)
  /-- ECALL: environment call (R210). -/
  | ecall
  /-- EBREAK: breakpoint, the clean halt (R211). -/
  | ebreak
  deriving DecidableEq, Repr

/-- The mnemonic of an instruction, as spec/opcode_table.json spells it. -/
def Instr.mnemonic : Instr → String
  | .lui _ _ => "LUI"
  | .auipc _ _ => "AUIPC"
  | .jal _ _ => "JAL"
  | .jalr _ _ _ => "JALR"
  | .beq _ _ _ => "BEQ"
  | .bne _ _ _ => "BNE"
  | .blt _ _ _ => "BLT"
  | .bge _ _ _ => "BGE"
  | .bltu _ _ _ => "BLTU"
  | .bgeu _ _ _ => "BGEU"
  | .lb _ _ _ => "LB"
  | .lh _ _ _ => "LH"
  | .lw _ _ _ => "LW"
  | .lbu _ _ _ => "LBU"
  | .lhu _ _ _ => "LHU"
  | .sb _ _ _ => "SB"
  | .sh _ _ _ => "SH"
  | .sw _ _ _ => "SW"
  | .addi _ _ _ => "ADDI"
  | .slti _ _ _ => "SLTI"
  | .sltiu _ _ _ => "SLTIU"
  | .xori _ _ _ => "XORI"
  | .ori _ _ _ => "ORI"
  | .andi _ _ _ => "ANDI"
  | .slli _ _ _ => "SLLI"
  | .srli _ _ _ => "SRLI"
  | .srai _ _ _ => "SRAI"
  | .add _ _ _ => "ADD"
  | .sub _ _ _ => "SUB"
  | .sll _ _ _ => "SLL"
  | .slt _ _ _ => "SLT"
  | .sltu _ _ _ => "SLTU"
  | .xor _ _ _ => "XOR"
  | .srl _ _ _ => "SRL"
  | .sra _ _ _ => "SRA"
  | .or _ _ _ => "OR"
  | .and _ _ _ => "AND"
  | .mul _ _ _ => "MUL"
  | .mulh _ _ _ => "MULH"
  | .mulhsu _ _ _ => "MULHSU"
  | .mulhu _ _ _ => "MULHU"
  | .div _ _ _ => "DIV"
  | .divu _ _ _ => "DIVU"
  | .rem _ _ _ => "REM"
  | .remu _ _ _ => "REMU"
  | .ecall => "ECALL"
  | .ebreak => "EBREAK"

end Sys2Proof
end

