-- ==== Sys2Proof/Decode.lean ====
section
/-! DEFINITION. The encoding of 30_encoding.md: field positions (R71 Table 30-1), formats (R72 Table 30-2),
immediate layouts (R73 to R78), the opcode map (R79, R80), the total decoder (R81) that refuses every
other word by name (R82), the encoder, and the opcode table's rows as data. The bit positions and values
are the spec's, which takes them from RV32IM (92_eei_decisions.md D1; log entry 8). -/

namespace Sys2Proof

/-! ## Fields (R71) -/

/-- inst[6:0]. -/
def fieldOpcode (w : Word) : BitVec 7 := w.extractLsb' 0 7

/-- inst[11:7]. -/
def fieldRd (w : Word) : RegIdx := w.extractLsb' 7 5

/-- inst[14:12]. -/
def fieldFunct3 (w : Word) : BitVec 3 := w.extractLsb' 12 3

/-- inst[19:15]. -/
def fieldRs1 (w : Word) : RegIdx := w.extractLsb' 15 5

/-- inst[24:20]. -/
def fieldRs2 (w : Word) : RegIdx := w.extractLsb' 20 5

/-- inst[31:25]. -/
def fieldFunct7 (w : Word) : BitVec 7 := w.extractLsb' 25 7

/-- inst[24:20] read as a shift amount (R78). -/
def fieldShamt (w : Word) : BitVec 5 := w.extractLsb' 20 5

/-! ## Immediates, before extension (R73 to R77) -/

/-- The 12 bits of imm_I, inst[31:20] (R73). -/
def fieldImmI (w : Word) : BitVec 12 := w.extractLsb' 20 12

/-- The 12 bits of imm_S, inst[31:25] ++ inst[11:7] (R74). -/
def fieldImmS (w : Word) : BitVec 12 := w.extractLsb' 25 7 ++ w.extractLsb' 7 5

/-- The 13-bit offset of imm_B, inst[31] ++ inst[7] ++ inst[30:25] ++ inst[11:8] ++ 0 (R75). -/
def fieldImmB (w : Word) : BitVec 13 :=
  w.extractLsb' 31 1 ++ w.extractLsb' 7 1 ++ w.extractLsb' 25 6 ++ w.extractLsb' 8 4 ++ 0#1

/-- The 20 bits of imm_U, inst[31:12] (R76). -/
def fieldImmU (w : Word) : BitVec 20 := w.extractLsb' 12 20

/-- The 21-bit offset of imm_J, inst[31] ++ inst[19:12] ++ inst[20] ++ inst[30:21] ++ 0 (R77). -/
def fieldImmJ (w : Word) : BitVec 21 :=
  w.extractLsb' 31 1 ++ w.extractLsb' 12 8 ++ w.extractLsb' 20 1 ++ w.extractLsb' 21 10 ++ 0#1

/-! ## The decoder (R79 to R82) -/

/-- Why a word is not an instruction (R82), or a byte string does not hold a word. The machine makes no
use of the reason: every one is the same DECODE_FAULT. The names are the model's (log entry 10). -/
inductive DecodeError where
  /-- inst[6:0] is not in Table 30-3. -/
  | unknownOpcode (opcode : BitVec 7)
  /-- funct3 selects no instruction under this major opcode. -/
  | unknownFunct3 (opcode : BitVec 7) (funct3 : BitVec 3)
  /-- funct7 selects no instruction under this major opcode and funct3. -/
  | unknownFunct7 (opcode : BitVec 7) (funct3 : BitVec 3) (funct7 : BitVec 7)
  /-- A SYSTEM word other than ECALL and EBREAK. -/
  | unknownSystem (word : Word)
  /-- Fewer than four bytes. -/
  | tooFewBytes
  deriving DecidableEq, Repr

/-- JALR, under major opcode 0x67. -/
def decodeJalr (w : Word) : Except DecodeError Instr :=
  if fieldFunct3 w = 0b000#3 then .ok (.jalr (fieldRd w) (fieldRs1 w) (fieldImmI w))
  else .error (.unknownFunct3 (fieldOpcode w) (fieldFunct3 w))

/-- The branches, under major opcode 0x63. -/
def decodeBranch (w : Word) : Except DecodeError Instr :=
  if fieldFunct3 w = 0b000#3 then .ok (.beq (fieldRs1 w) (fieldRs2 w) (fieldImmB w))
  else if fieldFunct3 w = 0b001#3 then .ok (.bne (fieldRs1 w) (fieldRs2 w) (fieldImmB w))
  else if fieldFunct3 w = 0b100#3 then .ok (.blt (fieldRs1 w) (fieldRs2 w) (fieldImmB w))
  else if fieldFunct3 w = 0b101#3 then .ok (.bge (fieldRs1 w) (fieldRs2 w) (fieldImmB w))
  else if fieldFunct3 w = 0b110#3 then .ok (.bltu (fieldRs1 w) (fieldRs2 w) (fieldImmB w))
  else if fieldFunct3 w = 0b111#3 then .ok (.bgeu (fieldRs1 w) (fieldRs2 w) (fieldImmB w))
  else .error (.unknownFunct3 (fieldOpcode w) (fieldFunct3 w))

/-- The loads, under major opcode 0x03. -/
def decodeLoad (w : Word) : Except DecodeError Instr :=
  if fieldFunct3 w = 0b000#3 then .ok (.lb (fieldRd w) (fieldRs1 w) (fieldImmI w))
  else if fieldFunct3 w = 0b001#3 then .ok (.lh (fieldRd w) (fieldRs1 w) (fieldImmI w))
  else if fieldFunct3 w = 0b010#3 then .ok (.lw (fieldRd w) (fieldRs1 w) (fieldImmI w))
  else if fieldFunct3 w = 0b100#3 then .ok (.lbu (fieldRd w) (fieldRs1 w) (fieldImmI w))
  else if fieldFunct3 w = 0b101#3 then .ok (.lhu (fieldRd w) (fieldRs1 w) (fieldImmI w))
  else .error (.unknownFunct3 (fieldOpcode w) (fieldFunct3 w))

/-- The stores, under major opcode 0x23. -/
def decodeStore (w : Word) : Except DecodeError Instr :=
  if fieldFunct3 w = 0b000#3 then .ok (.sb (fieldRs2 w) (fieldRs1 w) (fieldImmS w))
  else if fieldFunct3 w = 0b001#3 then .ok (.sh (fieldRs2 w) (fieldRs1 w) (fieldImmS w))
  else if fieldFunct3 w = 0b010#3 then .ok (.sw (fieldRs2 w) (fieldRs1 w) (fieldImmS w))
  else .error (.unknownFunct3 (fieldOpcode w) (fieldFunct3 w))

/-- The register-immediate instructions, under major opcode 0x13; the shifts check funct7. -/
def decodeOpImm (w : Word) : Except DecodeError Instr :=
  if fieldFunct3 w = 0b000#3 then .ok (.addi (fieldRd w) (fieldRs1 w) (fieldImmI w))
  else if fieldFunct3 w = 0b010#3 then .ok (.slti (fieldRd w) (fieldRs1 w) (fieldImmI w))
  else if fieldFunct3 w = 0b011#3 then .ok (.sltiu (fieldRd w) (fieldRs1 w) (fieldImmI w))
  else if fieldFunct3 w = 0b100#3 then .ok (.xori (fieldRd w) (fieldRs1 w) (fieldImmI w))
  else if fieldFunct3 w = 0b110#3 then .ok (.ori (fieldRd w) (fieldRs1 w) (fieldImmI w))
  else if fieldFunct3 w = 0b111#3 then .ok (.andi (fieldRd w) (fieldRs1 w) (fieldImmI w))
  else if fieldFunct3 w = 0b001#3 then
    if fieldFunct7 w = 0b0000000#7 then .ok (.slli (fieldRd w) (fieldRs1 w) (fieldShamt w))
    else .error (.unknownFunct7 (fieldOpcode w) (fieldFunct3 w) (fieldFunct7 w))
  else if fieldFunct3 w = 0b101#3 then
    if fieldFunct7 w = 0b0000000#7 then .ok (.srli (fieldRd w) (fieldRs1 w) (fieldShamt w))
    else if fieldFunct7 w = 0b0100000#7 then .ok (.srai (fieldRd w) (fieldRs1 w) (fieldShamt w))
    else .error (.unknownFunct7 (fieldOpcode w) (fieldFunct3 w) (fieldFunct7 w))
  else .error (.unknownFunct3 (fieldOpcode w) (fieldFunct3 w))

/-- The register-register instructions with funct7 0000000. -/
def decodeOpBase (w : Word) : Except DecodeError Instr :=
  if fieldFunct3 w = 0b000#3 then .ok (.add (fieldRd w) (fieldRs1 w) (fieldRs2 w))
  else if fieldFunct3 w = 0b001#3 then .ok (.sll (fieldRd w) (fieldRs1 w) (fieldRs2 w))
  else if fieldFunct3 w = 0b010#3 then .ok (.slt (fieldRd w) (fieldRs1 w) (fieldRs2 w))
  else if fieldFunct3 w = 0b011#3 then .ok (.sltu (fieldRd w) (fieldRs1 w) (fieldRs2 w))
  else if fieldFunct3 w = 0b100#3 then .ok (.xor (fieldRd w) (fieldRs1 w) (fieldRs2 w))
  else if fieldFunct3 w = 0b101#3 then .ok (.srl (fieldRd w) (fieldRs1 w) (fieldRs2 w))
  else if fieldFunct3 w = 0b110#3 then .ok (.or (fieldRd w) (fieldRs1 w) (fieldRs2 w))
  else if fieldFunct3 w = 0b111#3 then .ok (.and (fieldRd w) (fieldRs1 w) (fieldRs2 w))
  else .error (.unknownFunct7 (fieldOpcode w) (fieldFunct3 w) (fieldFunct7 w))

/-- The register-register instructions with funct7 0100000. -/
def decodeOpAlternate (w : Word) : Except DecodeError Instr :=
  if fieldFunct3 w = 0b000#3 then .ok (.sub (fieldRd w) (fieldRs1 w) (fieldRs2 w))
  else if fieldFunct3 w = 0b101#3 then .ok (.sra (fieldRd w) (fieldRs1 w) (fieldRs2 w))
  else .error (.unknownFunct7 (fieldOpcode w) (fieldFunct3 w) (fieldFunct7 w))

/-- The multiply and divide instructions, with funct7 0000001. -/
def decodeOpMulDiv (w : Word) : Except DecodeError Instr :=
  if fieldFunct3 w = 0b000#3 then .ok (.mul (fieldRd w) (fieldRs1 w) (fieldRs2 w))
  else if fieldFunct3 w = 0b001#3 then .ok (.mulh (fieldRd w) (fieldRs1 w) (fieldRs2 w))
  else if fieldFunct3 w = 0b010#3 then .ok (.mulhsu (fieldRd w) (fieldRs1 w) (fieldRs2 w))
  else if fieldFunct3 w = 0b011#3 then .ok (.mulhu (fieldRd w) (fieldRs1 w) (fieldRs2 w))
  else if fieldFunct3 w = 0b100#3 then .ok (.div (fieldRd w) (fieldRs1 w) (fieldRs2 w))
  else if fieldFunct3 w = 0b101#3 then .ok (.divu (fieldRd w) (fieldRs1 w) (fieldRs2 w))
  else if fieldFunct3 w = 0b110#3 then .ok (.rem (fieldRd w) (fieldRs1 w) (fieldRs2 w))
  else if fieldFunct3 w = 0b111#3 then .ok (.remu (fieldRd w) (fieldRs1 w) (fieldRs2 w))
  else .error (.unknownFunct7 (fieldOpcode w) (fieldFunct3 w) (fieldFunct7 w))

/-- The register-register instructions, under major opcode 0x33, selected by funct7 and funct3. -/
def decodeOp (w : Word) : Except DecodeError Instr :=
  if fieldFunct7 w = 0b0000000#7 then decodeOpBase w
  else if fieldFunct7 w = 0b0100000#7 then decodeOpAlternate w
  else if fieldFunct7 w = 0b0000001#7 then decodeOpMulDiv w
  else .error (.unknownFunct7 (fieldOpcode w) (fieldFunct3 w) (fieldFunct7 w))

/-- ECALL and EBREAK, each selected by its whole word, under major opcode 0x73. -/
def decodeSystem (w : Word) : Except DecodeError Instr :=
  if w = 0x00000073#32 then .ok .ecall
  else if w = 0x00100073#32 then .ok .ebreak
  else .error (.unknownSystem w)

/-- `Decode(inst)`, total on all 2^32 words (R81). -/
def decodeWord (w : Word) : Except DecodeError Instr :=
  if fieldOpcode w = 0x37#7 then .ok (.lui (fieldRd w) (fieldImmU w))
  else if fieldOpcode w = 0x17#7 then .ok (.auipc (fieldRd w) (fieldImmU w))
  else if fieldOpcode w = 0x6F#7 then .ok (.jal (fieldRd w) (fieldImmJ w))
  else if fieldOpcode w = 0x67#7 then decodeJalr w
  else if fieldOpcode w = 0x63#7 then decodeBranch w
  else if fieldOpcode w = 0x03#7 then decodeLoad w
  else if fieldOpcode w = 0x23#7 then decodeStore w
  else if fieldOpcode w = 0x13#7 then decodeOpImm w
  else if fieldOpcode w = 0x33#7 then decodeOp w
  else if fieldOpcode w = 0x73#7 then decodeSystem w
  else .error (.unknownOpcode (fieldOpcode w))

/-! ## Bytes: instruction words are little-endian (R70, 20_memory.md R44) -/

/-- The word whose bytes, lowest address first, are b0 to b3. -/
def wordOfBytes (b0 b1 b2 b3 : Byte) : Word := b3 ++ b2 ++ b1 ++ b0

/-- Byte k of a word, bits [8k+7:8k]. -/
def byteOfWord (w : Word) (k : Nat) : Byte := w.extractLsb' (8 * k) 8

/-- The four bytes of a word, lowest address first. -/
def bytesOfWord (w : Word) : List Byte := [byteOfWord w 0, byteOfWord w 1, byteOfWord w 2, byteOfWord w 3]

/-- The first instruction of a byte string and the bytes after it. -/
def decodeBytes : List Byte → Except DecodeError (Instr × List Byte)
  | b0 :: b1 :: b2 :: b3 :: rest =>
    match decodeWord (wordOfBytes b0 b1 b2 b3) with
    | .ok i => .ok (i, rest)
    | .error e => .error e
  | _ => .error .tooFewBytes

/-- The instruction the decoder reads from an instruction whose low nbits bits are those of w and whose
other bits are 0. -/
def decodeTableWord (nbits w : Nat) : Option Instr :=
  match decodeBytes (bytesOfWord (BitVec.ofNat 32 (w % 2 ^ nbits))) with
  | .ok (i, _) => some i
  | .error _ => none

/-! ## The encoder, from the same tables (R72 to R80) -/

/-- R format, and the I-shift format with shamt in the place of rs2. -/
def encodeR (funct7 : BitVec 7) (rs2 rs1 : RegIdx) (funct3 : BitVec 3) (rd : RegIdx) (opcode : BitVec 7) :
    Word :=
  funct7 ++ rs2 ++ rs1 ++ funct3 ++ rd ++ opcode

/-- I format. -/
def encodeI (imm : BitVec 12) (rs1 : RegIdx) (funct3 : BitVec 3) (rd : RegIdx) (opcode : BitVec 7) : Word :=
  imm ++ rs1 ++ funct3 ++ rd ++ opcode

/-- S format. -/
def encodeS (imm : BitVec 12) (rs2 rs1 : RegIdx) (funct3 : BitVec 3) (opcode : BitVec 7) : Word :=
  imm.extractLsb' 5 7 ++ rs2 ++ rs1 ++ funct3 ++ imm.extractLsb' 0 5 ++ opcode

/-- B format: imm[12] ++ imm[10:5] in inst[31:25], imm[4:1] ++ imm[11] in inst[11:7]. -/
def encodeB (offset : BitVec 13) (rs2 rs1 : RegIdx) (funct3 : BitVec 3) (opcode : BitVec 7) : Word :=
  offset.extractLsb' 12 1 ++ offset.extractLsb' 5 6 ++ rs2 ++ rs1 ++ funct3 ++ offset.extractLsb' 1 4
    ++ offset.extractLsb' 11 1 ++ opcode

/-- U format. -/
def encodeU (imm : BitVec 20) (rd : RegIdx) (opcode : BitVec 7) : Word := imm ++ rd ++ opcode

/-- J format: imm[20] ++ imm[10:1] ++ imm[11] ++ imm[19:12] in inst[31:12]. -/
def encodeJ (offset : BitVec 21) (rd : RegIdx) (opcode : BitVec 7) : Word :=
  offset.extractLsb' 20 1 ++ offset.extractLsb' 1 10 ++ offset.extractLsb' 11 1 ++ offset.extractLsb' 12 8
    ++ rd ++ opcode

/-- The word of an instruction. It loses bit 0 of a branch or JAL offset, which `Instr.wf` says is 0. -/
def encode : Instr → Word
  | .lui rd imm => encodeU imm rd 0x37#7
  | .auipc rd imm => encodeU imm rd 0x17#7
  | .jal rd offset => encodeJ offset rd 0x6F#7
  | .jalr rd rs1 imm => encodeI imm rs1 0b000#3 rd 0x67#7
  | .beq rs1 rs2 offset => encodeB offset rs2 rs1 0b000#3 0x63#7
  | .bne rs1 rs2 offset => encodeB offset rs2 rs1 0b001#3 0x63#7
  | .blt rs1 rs2 offset => encodeB offset rs2 rs1 0b100#3 0x63#7
  | .bge rs1 rs2 offset => encodeB offset rs2 rs1 0b101#3 0x63#7
  | .bltu rs1 rs2 offset => encodeB offset rs2 rs1 0b110#3 0x63#7
  | .bgeu rs1 rs2 offset => encodeB offset rs2 rs1 0b111#3 0x63#7
  | .lb rd rs1 imm => encodeI imm rs1 0b000#3 rd 0x03#7
  | .lh rd rs1 imm => encodeI imm rs1 0b001#3 rd 0x03#7
  | .lw rd rs1 imm => encodeI imm rs1 0b010#3 rd 0x03#7
  | .lbu rd rs1 imm => encodeI imm rs1 0b100#3 rd 0x03#7
  | .lhu rd rs1 imm => encodeI imm rs1 0b101#3 rd 0x03#7
  | .sb rs2 rs1 imm => encodeS imm rs2 rs1 0b000#3 0x23#7
  | .sh rs2 rs1 imm => encodeS imm rs2 rs1 0b001#3 0x23#7
  | .sw rs2 rs1 imm => encodeS imm rs2 rs1 0b010#3 0x23#7
  | .addi rd rs1 imm => encodeI imm rs1 0b000#3 rd 0x13#7
  | .slti rd rs1 imm => encodeI imm rs1 0b010#3 rd 0x13#7
  | .sltiu rd rs1 imm => encodeI imm rs1 0b011#3 rd 0x13#7
  | .xori rd rs1 imm => encodeI imm rs1 0b100#3 rd 0x13#7
  | .ori rd rs1 imm => encodeI imm rs1 0b110#3 rd 0x13#7
  | .andi rd rs1 imm => encodeI imm rs1 0b111#3 rd 0x13#7
  | .slli rd rs1 shamt => encodeR 0b0000000#7 shamt rs1 0b001#3 rd 0x13#7
  | .srli rd rs1 shamt => encodeR 0b0000000#7 shamt rs1 0b101#3 rd 0x13#7
  | .srai rd rs1 shamt => encodeR 0b0100000#7 shamt rs1 0b101#3 rd 0x13#7
  | .add rd rs1 rs2 => encodeR 0b0000000#7 rs2 rs1 0b000#3 rd 0x33#7
  | .sub rd rs1 rs2 => encodeR 0b0100000#7 rs2 rs1 0b000#3 rd 0x33#7
  | .sll rd rs1 rs2 => encodeR 0b0000000#7 rs2 rs1 0b001#3 rd 0x33#7
  | .slt rd rs1 rs2 => encodeR 0b0000000#7 rs2 rs1 0b010#3 rd 0x33#7
  | .sltu rd rs1 rs2 => encodeR 0b0000000#7 rs2 rs1 0b011#3 rd 0x33#7
  | .xor rd rs1 rs2 => encodeR 0b0000000#7 rs2 rs1 0b100#3 rd 0x33#7
  | .srl rd rs1 rs2 => encodeR 0b0000000#7 rs2 rs1 0b101#3 rd 0x33#7
  | .sra rd rs1 rs2 => encodeR 0b0100000#7 rs2 rs1 0b101#3 rd 0x33#7
  | .or rd rs1 rs2 => encodeR 0b0000000#7 rs2 rs1 0b110#3 rd 0x33#7
  | .and rd rs1 rs2 => encodeR 0b0000000#7 rs2 rs1 0b111#3 rd 0x33#7
  | .mul rd rs1 rs2 => encodeR 0b0000001#7 rs2 rs1 0b000#3 rd 0x33#7
  | .mulh rd rs1 rs2 => encodeR 0b0000001#7 rs2 rs1 0b001#3 rd 0x33#7
  | .mulhsu rd rs1 rs2 => encodeR 0b0000001#7 rs2 rs1 0b010#3 rd 0x33#7
  | .mulhu rd rs1 rs2 => encodeR 0b0000001#7 rs2 rs1 0b011#3 rd 0x33#7
  | .div rd rs1 rs2 => encodeR 0b0000001#7 rs2 rs1 0b100#3 rd 0x33#7
  | .divu rd rs1 rs2 => encodeR 0b0000001#7 rs2 rs1 0b101#3 rd 0x33#7
  | .rem rd rs1 rs2 => encodeR 0b0000001#7 rs2 rs1 0b110#3 rd 0x33#7
  | .remu rd rs1 rs2 => encodeR 0b0000001#7 rs2 rs1 0b111#3 rd 0x33#7
  | .ecall => 0x00000073#32
  | .ebreak => 0x00100073#32

/-- The bytes of an instruction as memory holds them, lowest address first. -/
def encodeBytes (i : Instr) : List Byte := bytesOfWord (encode i)

/-! ## The opcode table as data (R80) -/

/-- One row of spec/opcode_table.json. -/
structure OpcodeRow where
  mnemonic : String
  mask : Word
  pattern : Word
  deriving DecidableEq, Repr

/-- "A word is that instruction exactly when (inst & mask) = match" (R80). -/
def OpcodeRow.accepts (row : OpcodeRow) (w : Word) : Bool := w &&& row.mask == row.pattern

/-- The rows of spec/opcode_table.json, in the table's order. -/
def opcodeTable : List OpcodeRow :=
  [⟨"LUI", 0x0000007F, 0x00000037⟩,
   ⟨"AUIPC", 0x0000007F, 0x00000017⟩,
   ⟨"JAL", 0x0000007F, 0x0000006F⟩,
   ⟨"JALR", 0x0000707F, 0x00000067⟩,
   ⟨"BEQ", 0x0000707F, 0x00000063⟩,
   ⟨"BNE", 0x0000707F, 0x00001063⟩,
   ⟨"BLT", 0x0000707F, 0x00004063⟩,
   ⟨"BGE", 0x0000707F, 0x00005063⟩,
   ⟨"BLTU", 0x0000707F, 0x00006063⟩,
   ⟨"BGEU", 0x0000707F, 0x00007063⟩,
   ⟨"LB", 0x0000707F, 0x00000003⟩,
   ⟨"LH", 0x0000707F, 0x00001003⟩,
   ⟨"LW", 0x0000707F, 0x00002003⟩,
   ⟨"LBU", 0x0000707F, 0x00004003⟩,
   ⟨"LHU", 0x0000707F, 0x00005003⟩,
   ⟨"SB", 0x0000707F, 0x00000023⟩,
   ⟨"SH", 0x0000707F, 0x00001023⟩,
   ⟨"SW", 0x0000707F, 0x00002023⟩] ++
  [⟨"ADDI", 0x0000707F, 0x00000013⟩,
   ⟨"SLTI", 0x0000707F, 0x00002013⟩,
   ⟨"SLTIU", 0x0000707F, 0x00003013⟩,
   ⟨"XORI", 0x0000707F, 0x00004013⟩,
   ⟨"ORI", 0x0000707F, 0x00006013⟩,
   ⟨"ANDI", 0x0000707F, 0x00007013⟩,
   ⟨"SLLI", 0xFE00707F, 0x00001013⟩,
   ⟨"SRLI", 0xFE00707F, 0x00005013⟩,
   ⟨"SRAI", 0xFE00707F, 0x40005013⟩] ++
  [⟨"ADD", 0xFE00707F, 0x00000033⟩,
   ⟨"SUB", 0xFE00707F, 0x40000033⟩,
   ⟨"SLL", 0xFE00707F, 0x00001033⟩,
   ⟨"SLT", 0xFE00707F, 0x00002033⟩,
   ⟨"SLTU", 0xFE00707F, 0x00003033⟩,
   ⟨"XOR", 0xFE00707F, 0x00004033⟩,
   ⟨"SRL", 0xFE00707F, 0x00005033⟩,
   ⟨"SRA", 0xFE00707F, 0x40005033⟩,
   ⟨"OR", 0xFE00707F, 0x00006033⟩,
   ⟨"AND", 0xFE00707F, 0x00007033⟩,
   ⟨"MUL", 0xFE00707F, 0x02000033⟩,
   ⟨"MULH", 0xFE00707F, 0x02001033⟩,
   ⟨"MULHSU", 0xFE00707F, 0x02002033⟩,
   ⟨"MULHU", 0xFE00707F, 0x02003033⟩,
   ⟨"DIV", 0xFE00707F, 0x02004033⟩,
   ⟨"DIVU", 0xFE00707F, 0x02005033⟩,
   ⟨"REM", 0xFE00707F, 0x02006033⟩,
   ⟨"REMU", 0xFE00707F, 0x02007033⟩] ++
  [⟨"ECALL", 0xFFFFFFFF, 0x00000073⟩,
   ⟨"EBREAK", 0xFFFFFFFF, 0x00100073⟩]

end Sys2Proof
end

