-- ==== Sys2Proof/Config.lean ====
section
/-! DEFINITION. The implementation parameters of 00_scope.md Table 00-1 (R5): the fixed addresses, the
RAM size the reset state uses, and the free value RAM_INIT. -/

namespace Sys2Proof.Config

/-- RAM_BASE, the first address of RAM (Table 00-1). -/
abbrev ramBase : Nat := 0x80000000

/-- IO_BASE, the first address of the device window (Table 00-1). -/
abbrev ioBase : Nat := 0x10000000

/-- DEV_CHAR, the character-out word (Table 00-1). -/
abbrev devChar : Nat := 0x10000000

/-- DEV_DEC, the signed-decimal-out word (Table 00-1). -/
abbrev devDec : Nat := 0x10000004

/-- DEV_HEX, the hexadecimal-out word (Table 00-1). -/
abbrev devHex : Nat := 0x10000008

/-- The device window is [IO_BASE, IO_BASE + 12) (Table 00-1). -/
abbrev deviceWindowSize : Nat := 12

/-- RESET_PC, the entry point, equal to RAM_BASE (Table 00-1, 70_reset_and_hazards.md R251). -/
abbrev resetPc : Word := 0x80000000

/-- RAM_SIZE / 4 of the reset state: 32 MiB, the smaller reference size. DESIGN CHOICE (log entry 1),
unsafe for a claim about the reset state alone; a claim about every state holds for every RAM_SIZE. -/
abbrev resetRamWords : Nat := 0x800000

/-- REG_INIT of the reset state, the value of x1 to x31. DESIGN CHOICE (log entry 2), unsafe. -/
abbrev resetRegister : Word := 0

/-- CI_INIT of the reset state. DESIGN CHOICE (log entry 3), unsafe. -/
abbrev resetInstruction : Word := 0

/-- RAM_INIT: the value at construction of the RAM byte at each offset, where no image byte covers it
(10_state.md R38, 92_eei_decisions.md D10 "OPEN"). A free value: it has no body, so no proof can learn
what it is. DESIGN CHOICE of form (log entry 4), safe. -/
opaque ramInit : Nat → Byte

end Sys2Proof.Config
end

