-- ==== Sys2Proof/Machine/State.lean ====
section
/-! DEFINITION. The state of the block (10_state.md R20) as plain data, the reasons a step can stop in the
host's sense, and the state after reset (10_state.md R38). -/

namespace Sys2Proof.Machine

/-- The three access widths of the bus (20_memory.md R42). -/
inductive Width where
  | byte
  | half
  | word
  deriving DecidableEq, Repr

/-- The kind of access a stop reports (10_state.md R33). -/
inductive Access where
  | none
  | read
  | write
  | fetch
  deriving DecidableEq, Repr

/-- The stop causes of 60_exceptions.md R221 Table 60-1. -/
inductive StopCause where
  /-- RUNNING, not a stop. -/
  | running
  /-- HALT_EBREAK, the clean halt (47_system.md R211). -/
  | haltEbreak
  /-- LOAD_MISALIGNED, the recoverable alignment fault (43_load_store.md R131). -/
  | loadMisaligned
  /-- FATAL_MEM, the fatal memory fault of a load or store (43_load_store.md R131, R137). -/
  | fatalMem
  /-- FETCH_FAULT, a bus fault on instruction fetch (40_execution_cycle.md R92). -/
  | fetchFault
  /-- DECODE_FAULT, an illegal word (47_system.md R213). -/
  | decodeFault
  deriving DecidableEq, Repr

/-- The stop status (10_state.md R33). Fields a cause does not use are 0 (`none` for `access`);
`width` is 0, 1, 2 or 4. -/
structure StopStatus where
  cause : StopCause
  addr : Word
  width : Nat
  access : Access
  pc : Word
  word : Word
  deriving DecidableEq, Repr

/-- The stop status while the core runs (10_state.md R38 Table 10-2). -/
def StopStatus.whileRunning : StopStatus :=
  { cause := .running, addr := 0, width := 0, access := .none, pc := 0, word := 0 }

/-- The three output channels (20_memory.md R48). -/
inductive Channel where
  | char
  | dec
  | hex
  deriving DecidableEq, Repr

/-- One event `(channel, n, v32)` on the output port (20_memory.md R48). -/
structure OutputEvent where
  channel : Channel
  width : Width
  value : Word
  deriving DecidableEq, Repr

/-- RAM as data: the bytes written so far (by an image load or a store), by address. A byte that is not
listed has no written value; reading it gives the free value RAM_INIT (`State.ramByte`; log entry 4). -/
abbrev Memory := List Host.Cell

/-- The canonical form: addresses strictly rising. An unlisted address reads as no written value, which no
entry can equal, so equal written contents are equal lists. -/
abbrev Memory.wf (m : Memory) : Prop := m.Pairwise fun c d => c.1 < d.1

/-- The state vector (10_state.md R20), with RAM_SIZE and the output port's record beside it. -/
structure State where
  /-- The program counter (R26). -/
  pc : Word
  /-- `regs[1..31]`: x(k + 1) at index k; x0 has no storage (R20 (b), R21). -/
  regs : Vector Word 31
  /-- The halt flag (R30). -/
  halted : Bool
  /-- The most recently fetched raw word (R32). -/
  currentInstruction : Word
  /-- The stop status (R33). -/
  stop : StopStatus
  /-- RAM_SIZE / 4, the OPEN parameter RAM_SIZE of 92_eei_decisions.md D11, a multiple of 4 by this form.
  The model's own field: no step changes it (log entry 1). -/
  ramWords : Nat
  /-- The RAM (R20 (f)). -/
  ram : Memory
  /-- The events sent on the output port, oldest first (20_memory.md R48). The model's own field: the
  spec calls the stream an output, and nothing reads it (log entry 5). -/
  output : List OutputEvent
  deriving DecidableEq, Repr

/-- The host's `fault` outcome. NO constructor: every exceptional event of the spec is a stop that the
state records (60_exceptions.md R226), so no step ends in a fault; safe (log entry 6). -/
inductive Fault where
  deriving DecidableEq, Repr

/-- The host's `refused` outcome. -/
inductive Refusal where
  /-- Raised by an arm of `exec` whose instruction has no meaning yet; safe. No arm raises it now. -/
  | notModelled (mnemonic : String)
  deriving DecidableEq, Repr

/-- The outcome of one step. -/
abbrev StepResult := Host.Outcome State Fault Refusal

/-- The state after construction over a bus into which no image is loaded (10_state.md R38 Table 10-2,
70_reset_and_hazards.md R250): pc, halted, stop as the spec states them; x1 to x31, current_instruction
and RAM_SIZE at the values log entries 1, 2 and 3 name; RAM all RAM_INIT. -/
def State.reset : State where
  pc := Config.resetPc
  regs := Vector.replicate 31 Config.resetRegister
  halted := false
  currentInstruction := Config.resetInstruction
  stop := StopStatus.whileRunning
  ramWords := Config.resetRamWords
  ram := []
  output := []

end Sys2Proof.Machine
end

