-- ==== Sys2Proof/Machine/Ops.lean ====
section
/-! DEFINITION. The named operations over the state: registers, RAM bytes, the bus (address decoding,
alignment, device words), the output port, taking a stop, committing an instruction, and the fetch. -/

namespace Sys2Proof.Machine

/-! ## Registers -/

/-- `x[i]` (10_state.md R21): register 0 always reads 0. -/
def State.readReg (s : State) (i : RegIdx) : Word :=
  if h : i = 0 then 0
  else s.regs[i.toNat - 1]'(by have := i.isLt; omega)

/-- `x[i] <- v` (10_state.md R22), the one register-write primitive: a write to register 0 is discarded. -/
def State.writeReg (s : State) (i : RegIdx) (v : Word) : State :=
  if h : i = 0 then s
  else { s with regs := s.regs.set (i.toNat - 1) v (by have := i.isLt; omega) }

/-! ## RAM bytes -/

/-- The written value of a byte of memory, if it has one. -/
def Memory.lookup : Memory → Nat → Option Byte
  | [], _ => none
  | (k, b) :: m, a => if a = k then some b else Memory.lookup m a

/-- Write one byte, keeping the addresses strictly rising. -/
def Memory.insert : Memory → Nat → Byte → Memory
  | [], a, v => [(a, v)]
  | (k, b) :: m, a, v =>
    if a < k then (a, v) :: (k, b) :: m
    else if a = k then (a, v) :: m
    else (k, b) :: Memory.insert m a v

/-- The number of bytes an access moves (20_memory.md R42). -/
def Width.bytes : Width → Nat
  | .byte => 1
  | .half => 2
  | .word => 4

/-- RAM_SIZE in bytes, a multiple of 4 (92_eei_decisions.md D11). -/
def State.ramSize (s : State) : Nat := 4 * s.ramWords

/-- `ram[a - RAM_BASE]`: the byte at address a, which is RAM_INIT where nothing has written it
(20_memory.md R56, 10_state.md R38; log entry 4). -/
def State.ramByte (s : State) (a : Nat) : Byte :=
  (s.ram.lookup a).getD (Config.ramInit (a - Config.ramBase))

/-- The n-byte little-endian value at address a, zero-extended (20_memory.md R44). -/
def State.readRam (s : State) (a : Nat) : Width → Word
  | .byte => (s.ramByte a).setWidth 32
  | .half => (s.ramByte (a + 1) ++ s.ramByte a).setWidth 32
  | .word => wordOfBytes (s.ramByte a) (s.ramByte (a + 1)) (s.ramByte (a + 2)) (s.ramByte (a + 3))

/-- Store the low n bytes of v at address a, the least significant at the lowest address (20_memory.md
R44, R46). -/
def Memory.store (m : Memory) (a : Nat) (v : Word) : Width → Memory
  | .byte => m.insert a (byteOfWord v 0)
  | .half => (m.insert a (byteOfWord v 0)).insert (a + 1) (byteOfWord v 1)
  | .word =>
    (((m.insert a (byteOfWord v 0)).insert (a + 1) (byteOfWord v 1)).insert (a + 2)
      (byteOfWord v 2)).insert (a + 3) (byteOfWord v 3)

/-- The state after that store. -/
def State.storeRam (s : State) (a : Nat) (v : Word) (n : Width) : State :=
  { s with ram := s.ram.store a v n }

/-! ## Address decoding and alignment (20_memory.md R41, R43) -/

/-- `IO_BASE <= u(a) < IO_BASE + 12`. -/
def inDeviceWindow (a : Word) : Bool :=
  decide (Config.ioBase ≤ a.toNat ∧ a.toNat < Config.ioBase + Config.deviceWindowSize)

/-- `RAM_BASE <= u(a) < RAM_BASE + RAM_SIZE`. -/
def State.inRam (s : State) (a : Word) : Bool :=
  decide (Config.ramBase ≤ a.toNat ∧ a.toNat < Config.ramBase + s.ramSize)

/-- The address is not a multiple of the access width; a byte access never is. -/
def isMisaligned (a : Word) : Width → Bool
  | .byte => false
  | .half => decide (a.toNat % 2 ≠ 0)
  | .word => decide (a.toNat % 4 ≠ 0)

/-- The output channel of a device-word address (20_memory.md R46, R48). -/
def deviceChannel (a : Word) : Option Channel :=
  if a.toNat = Config.devChar then some .char
  else if a.toNat = Config.devDec then some .dec
  else if a.toNat = Config.devHex then some .hex
  else none

/-- `zext_{8n}(trunc_{8n}(v))`: the low n bytes of a register value (43_load_store.md R137, R143). -/
def truncateTo (v : Word) : Width → Word
  | .byte => (v.setWidth 8).setWidth 32
  | .half => (v.setWidth 16).setWidth 32
  | .word => v

/-! ## The bus (20_memory.md R43, R46) -/

/-- The result of `MemRead`. -/
inductive ReadResult where
  | ok (value : Word)
  | misaligned
  | fatal
  deriving DecidableEq, Repr

/-- `MemRead(a, n)` (20_memory.md R43): the device window first, then the RAM bounds, then alignment. The
n-byte value of `Ok` is held zero-extended. A read changes no state. -/
def State.busRead (s : State) (a : Word) (n : Width) : ReadResult :=
  if inDeviceWindow a then .ok 0
  else if !s.inRam a then .fatal
  else if isMisaligned a n then .misaligned
  else .ok (s.readRam a.toNat n)

/-- `emit(channel, n, v)` (20_memory.md R48): one event, after every earlier one. -/
def State.emit (s : State) (c : Channel) (n : Width) (v : Word) : State :=
  { s with output := s.output ++ [{ channel := c, width := n, value := v }] }

/-- `MemWrite(a, n, v)` (20_memory.md R46), v already truncated to n bytes: the three device words first,
then the rest of the window, the RAM bounds, alignment. `none` is `Fatal`, and then nothing has
changed (R47). -/
def State.busWrite (s : State) (a : Word) (n : Width) (v : Word) : Option State :=
  match deviceChannel a with
  | some c => some (s.emit c n v)
  | none =>
    if inDeviceWindow a then none
    else if !s.inRam a then none
    else if isMisaligned a n then none
    else some (s.storeRam a.toNat v n)

/-! ## Stops: taking an exception (60_exceptions.md R222, R226) -/

/-- Raising a stop cause: `halted := true` and the stop status is written; nothing else changes
(60_exceptions.md R226). There is no return from a stop (R228): only `construct` starts execution again. -/
def State.takeStop (s : State) (st : StopStatus) : State := { s with halted := true, stop := st }

/-- The payload of HALT_EBREAK (60_exceptions.md Table 60-2). -/
def haltEbreakStop (pc : Word) : StopStatus :=
  { cause := .haltEbreak, addr := 0, width := 0, access := .none, pc := pc, word := 0 }

/-- The payload of LOAD_MISALIGNED (60_exceptions.md Table 60-2). -/
def loadMisalignedStop (ea : Word) (n : Width) (pc : Word) : StopStatus :=
  { cause := .loadMisaligned, addr := ea, width := n.bytes, access := .read, pc := pc, word := 0 }

/-- The payload of FATAL_MEM, for a load (`read`) or a store (`write`) (60_exceptions.md Table 60-2). -/
def fatalMemStop (access : Access) (ea : Word) (n : Width) (pc : Word) : StopStatus :=
  { cause := .fatalMem, addr := ea, width := n.bytes, access := access, pc := pc, word := 0 }

/-- The payload of FETCH_FAULT (60_exceptions.md Table 60-2). -/
def fetchFaultStop (pc : Word) : StopStatus :=
  { cause := .fetchFault, addr := pc, width := Width.word.bytes, access := .fetch, pc := pc, word := 0 }

/-- The payload of DECODE_FAULT (60_exceptions.md Table 60-2). -/
def decodeFaultStop (word pc : Word) : StopStatus :=
  { cause := .decodeFault, addr := 0, width := 0, access := .none, pc := pc, word := word }

/-- The numeric code of a stop cause (60_exceptions.md Table 60-1). -/
def StopCause.code : StopCause → Nat
  | .running => 0
  | .haltEbreak => 1
  | .loadMisaligned => 2
  | .fatalMem => 3
  | .fetchFault => 4
  | .decodeFault => 5

/-! ## Commit (40_execution_cycle.md R90, R91) -/

/-- The default next program counter, pc + 4 (10_state.md R27). -/
def State.pcPlus4 (s : State) : Word := s.pc + 4

/-- Commit a next program counter. -/
def State.commitPc (s : State) (nextPc : Word) : State := { s with pc := nextPc }

/-- Commit an instruction's register write and next program counter (40_execution_cycle.md R90 (4)). -/
def State.commit (s : State) (rd : RegIdx) (v nextPc : Word) : State :=
  (s.writeReg rd v).commitPc nextPc

/-- Complete an instruction that writes v to rd and goes on at pc + 4. -/
def State.completeWith (s : State) (rd : RegIdx) (v : Word) : StepResult :=
  .next (s.commit rd v s.pcPlus4)

/-! ## Fetch (20_memory.md R52, 40_execution_cycle.md R92) -/

/-- The fetch: the word at pc, or `none` where the bus answers `Fatal` or `Misaligned`. -/
def State.fetch (s : State) : Option Word :=
  match s.busRead s.pc .word with
  | .ok w => some w
  | .misaligned => none
  | .fatal => none

/-- Record the fetched word (10_state.md R32). -/
def State.recordFetch (s : State) (w : Word) : State := { s with currentInstruction := w }

/-- The step of a fetch fault: nothing but the stop (40_execution_cycle.md R90). -/
def State.stopFetchFault (s : State) : State := s.takeStop (fetchFaultStop s.pc)

/-- The step of an illegal word w, already fetched (47_system.md R213). -/
def State.stopDecodeFault (s : State) (w : Word) : State := s.takeStop (decodeFaultStop w s.pc)

/-- The four bytes of an instruction word stored at pc, as an image load leaves them (20_memory.md R44). -/
def State.storeFetchWord (s : State) (w : Word) : State :=
  s.storeRam s.pc.toNat w .word

end Sys2Proof.Machine
end

