-- ==== Sys2Proof/Machine/Operands.lean ====
section
/-! DEFINITION. Operand forms: extensions (00_scope.md R8, R9), the immediates of the six formats
(30_encoding.md R73 to R77), shift amounts (R78), and effective addresses and transfer targets
(43_load_store.md R130, 42_control_transfer.md R119). -/

namespace Sys2Proof.Machine

/-- `sext_N(f)`: the Word whose bits above N - 1 copy bit N - 1 of f (00_scope.md R8; N is the total
width, 90_conflicts.md C7). -/
def sext {n : Nat} (f : BitVec n) : Word := f.signExtend 32

/-- `zext_N(f)` (00_scope.md R9). -/
def zext {n : Nat} (f : BitVec n) : Word := f.setWidth 32

/-- imm_I, sign-extended from 12 bits (30_encoding.md R73). -/
def immI (imm : BitVec 12) : Word := sext imm

/-- imm_S, sign-extended from 12 bits (30_encoding.md R74). -/
def immS (imm : BitVec 12) : Word := sext imm

/-- imm_B, sign-extended from 13 bits (30_encoding.md R75). -/
def immB (offset : BitVec 13) : Word := sext offset

/-- imm_U, the 20 bits above twelve zeros (30_encoding.md R76). -/
def immU (imm : BitVec 20) : Word := imm ++ 0#12

/-- imm_J, sign-extended from 21 bits (30_encoding.md R77). -/
def immJ (offset : BitVec 21) : Word := sext offset

/-- The shift amount of a register-register shift, `x[rs2][4:0]` (30_encoding.md R78). -/
def shiftAmount (v : Word) : BitVec 5 := v.extractLsb' 0 5

/-- The effective address of a load, `x[rs1] + imm_I` modulo 2^32 (43_load_store.md R130). -/
def State.loadAddress (s : State) (rs1 : RegIdx) (imm : BitVec 12) : Word := s.readReg rs1 + immI imm

/-- The effective address of a store, `x[rs1] + imm_S` modulo 2^32 (43_load_store.md R130). -/
def State.storeAddress (s : State) (rs1 : RegIdx) (imm : BitVec 12) : Word := s.readReg rs1 + immS imm

/-- The target of JAL, `pc + imm_J` (42_control_transfer.md R110). -/
def State.jalTarget (s : State) (offset : BitVec 21) : Word := s.pc + immJ offset

/-- The target of JALR, `(x[rs1] + imm_I) & 0xFFFFFFFE` (42_control_transfer.md R111). -/
def State.jalrTarget (s : State) (rs1 : RegIdx) (imm : BitVec 12) : Word :=
  (s.readReg rs1 + immI imm) &&& 0xFFFFFFFE#32

/-- The target of a taken branch, `pc + imm_B` (42_control_transfer.md R112). -/
def State.branchTarget (s : State) (offset : BitVec 13) : Word := s.pc + immB offset

/-- The extension of LB: `sext_8` of the byte read (43_load_store.md R132). -/
def extendByteSigned (v : Word) : Word := sext (v.setWidth 8)

/-- The extension of LH: `sext_16` of the half-word read (43_load_store.md R133). -/
def extendHalfSigned (v : Word) : Word := sext (v.setWidth 16)

/-- The extension of LBU: `zext_8` of the byte read (43_load_store.md R135). -/
def extendByteUnsigned (v : Word) : Word := zext (v.setWidth 8)

/-- The extension of LHU: `zext_16` of the half-word read (43_load_store.md R136). -/
def extendHalfUnsigned (v : Word) : Word := zext (v.setWidth 16)

/-- The extension of LW: the identity (43_load_store.md R134). -/
def extendWord (v : Word) : Word := v

end Sys2Proof.Machine
end

