-- ==== Sys2Proof/Machine/AluImmediate.lean ====
section
/-! DEFINITION. The register-immediate ALU instructions (44_alu_immediate.md). -/

namespace Sys2Proof.Machine

/-- ADDI (R150). -/
def execAddi (rd rs1 : RegIdx) (imm : BitVec 12) (s : State) : StepResult :=
  s.completeWith rd (s.readReg rs1 + immI imm)

/-- SLTI (R151). -/
def execSlti (rd rs1 : RegIdx) (imm : BitVec 12) (s : State) : StepResult :=
  s.completeWith rd (setLessThanSigned (s.readReg rs1) (immI imm))

/-- SLTIU: the immediate is sign-extended first, then compared unsigned (R152). -/
def execSltiu (rd rs1 : RegIdx) (imm : BitVec 12) (s : State) : StepResult :=
  s.completeWith rd (setLessThanUnsigned (s.readReg rs1) (immI imm))

/-- XORI (R153). -/
def execXori (rd rs1 : RegIdx) (imm : BitVec 12) (s : State) : StepResult :=
  s.completeWith rd (s.readReg rs1 ^^^ immI imm)

/-- ORI (R154). -/
def execOri (rd rs1 : RegIdx) (imm : BitVec 12) (s : State) : StepResult :=
  s.completeWith rd (s.readReg rs1 ||| immI imm)

/-- ANDI (R155). -/
def execAndi (rd rs1 : RegIdx) (imm : BitVec 12) (s : State) : StepResult :=
  s.completeWith rd (s.readReg rs1 &&& immI imm)

/-- SLLI (R156). -/
def execSlli (rd rs1 : RegIdx) (shamt : BitVec 5) (s : State) : StepResult :=
  s.completeWith rd (shiftLeft (s.readReg rs1) shamt)

/-- SRLI (R157). -/
def execSrli (rd rs1 : RegIdx) (shamt : BitVec 5) (s : State) : StepResult :=
  s.completeWith rd (shiftRightLogical (s.readReg rs1) shamt)

/-- SRAI (R158). -/
def execSrai (rd rs1 : RegIdx) (shamt : BitVec 5) (s : State) : StepResult :=
  s.completeWith rd (shiftRightArithmetic (s.readReg rs1) shamt)

end Sys2Proof.Machine
end

