-- ==== Sys2Proof/Machine/AluRegister.lean ====
section
/-! DEFINITION. The register-register ALU instructions (45_alu_register.md). Both sources are read before rd is
written (40_execution_cycle.md R93). -/

namespace Sys2Proof.Machine

/-- ADD (R170). -/
def execAdd (rd rs1 rs2 : RegIdx) (s : State) : StepResult :=
  s.completeWith rd (s.readReg rs1 + s.readReg rs2)

/-- SUB (R171). -/
def execSub (rd rs1 rs2 : RegIdx) (s : State) : StepResult :=
  s.completeWith rd (s.readReg rs1 - s.readReg rs2)

/-- SLL (R172). -/
def execSll (rd rs1 rs2 : RegIdx) (s : State) : StepResult :=
  s.completeWith rd (shiftLeft (s.readReg rs1) (shiftAmount (s.readReg rs2)))

/-- SLT (R173). -/
def execSlt (rd rs1 rs2 : RegIdx) (s : State) : StepResult :=
  s.completeWith rd (setLessThanSigned (s.readReg rs1) (s.readReg rs2))

/-- SLTU (R174). -/
def execSltu (rd rs1 rs2 : RegIdx) (s : State) : StepResult :=
  s.completeWith rd (setLessThanUnsigned (s.readReg rs1) (s.readReg rs2))

/-- XOR (R175). -/
def execXor (rd rs1 rs2 : RegIdx) (s : State) : StepResult :=
  s.completeWith rd (s.readReg rs1 ^^^ s.readReg rs2)

/-- SRL (R176). -/
def execSrl (rd rs1 rs2 : RegIdx) (s : State) : StepResult :=
  s.completeWith rd (shiftRightLogical (s.readReg rs1) (shiftAmount (s.readReg rs2)))

/-- SRA (R177). -/
def execSra (rd rs1 rs2 : RegIdx) (s : State) : StepResult :=
  s.completeWith rd (shiftRightArithmetic (s.readReg rs1) (shiftAmount (s.readReg rs2)))

/-- OR (R178). -/
def execOr (rd rs1 rs2 : RegIdx) (s : State) : StepResult :=
  s.completeWith rd (s.readReg rs1 ||| s.readReg rs2)

/-- AND (R179). -/
def execAnd (rd rs1 rs2 : RegIdx) (s : State) : StepResult :=
  s.completeWith rd (s.readReg rs1 &&& s.readReg rs2)

end Sys2Proof.Machine
end

