-- ==== Sys2Proof/Machine/ControlTransfer.lean ====
section
/-! DEFINITION. Jumps and branches (42_control_transfer.md). A target is committed without any alignment or
range check (R119); the next fetch finds a bad one. -/

namespace Sys2Proof.Machine

/-- Link and jump: `x[rd] <- pc + 4`, `pc <- target` (R110, R111). The target was read before the link is
written. -/
def State.linkAndJump (s : State) (rd : RegIdx) (target : Word) : StepResult :=
  .next (s.commit rd s.pcPlus4 target)

/-- The common part of the branches (R112): the target if taken, else pc + 4. No register is written. -/
def State.branchOn (s : State) (taken : Bool) (offset : BitVec 13) : StepResult :=
  .next (s.commitPc (if taken then s.branchTarget offset else s.pcPlus4))

/-- JAL (R110). -/
def execJal (rd : RegIdx) (offset : BitVec 21) (s : State) : StepResult :=
  s.linkAndJump rd (s.jalTarget offset)

/-- JALR (R111). -/
def execJalr (rd rs1 : RegIdx) (imm : BitVec 12) (s : State) : StepResult :=
  s.linkAndJump rd (s.jalrTarget rs1 imm)

/-- BEQ (R113). -/
def execBeq (rs1 rs2 : RegIdx) (offset : BitVec 13) (s : State) : StepResult :=
  s.branchOn (condEq (s.readReg rs1) (s.readReg rs2)) offset

/-- BNE (R114). -/
def execBne (rs1 rs2 : RegIdx) (offset : BitVec 13) (s : State) : StepResult :=
  s.branchOn (condNe (s.readReg rs1) (s.readReg rs2)) offset

/-- BLT (R115). -/
def execBlt (rs1 rs2 : RegIdx) (offset : BitVec 13) (s : State) : StepResult :=
  s.branchOn (condLt (s.readReg rs1) (s.readReg rs2)) offset

/-- BGE (R116). -/
def execBge (rs1 rs2 : RegIdx) (offset : BitVec 13) (s : State) : StepResult :=
  s.branchOn (condGe (s.readReg rs1) (s.readReg rs2)) offset

/-- BLTU (R117). -/
def execBltu (rs1 rs2 : RegIdx) (offset : BitVec 13) (s : State) : StepResult :=
  s.branchOn (condLtu (s.readReg rs1) (s.readReg rs2)) offset

/-- BGEU (R118). -/
def execBgeu (rs1 rs2 : RegIdx) (offset : BitVec 13) (s : State) : StepResult :=
  s.branchOn (condGeu (s.readReg rs1) (s.readReg rs2)) offset

end Sys2Proof.Machine
end

