-- ==== Sys2Proof/Machine/LoadStore.lean ====
section
/-! DEFINITION. Loads and stores (43_load_store.md). -/

namespace Sys2Proof.Machine

/-- The common part of the loads (R131): read n bytes at the effective address, extend, write rd. A load
into x0 reads too, and can stop (R142). -/
def State.load (s : State) (n : Width) (ext : Word → Word) (rd rs1 : RegIdx) (imm : BitVec 12) :
    StepResult :=
  match s.busRead (s.loadAddress rs1 imm) n with
  | .fatal => .next (s.takeStop (fatalMemStop .read (s.loadAddress rs1 imm) n s.pc))
  | .misaligned => .next (s.takeStop (loadMisalignedStop (s.loadAddress rs1 imm) n s.pc))
  | .ok v => s.completeWith rd (ext v)

/-- The common part of the stores (R137): write the low n bytes of x[rs2] at the effective address. -/
def State.store (s : State) (n : Width) (rs2 rs1 : RegIdx) (imm : BitVec 12) : StepResult :=
  match s.busWrite (s.storeAddress rs1 imm) n (truncateTo (s.readReg rs2) n) with
  | none => .next (s.takeStop (fatalMemStop .write (s.storeAddress rs1 imm) n s.pc))
  | some t => .next (t.commitPc s.pcPlus4)

/-- LB (R132). -/
def execLb (rd rs1 : RegIdx) (imm : BitVec 12) (s : State) : StepResult :=
  s.load .byte extendByteSigned rd rs1 imm

/-- LH (R133). -/
def execLh (rd rs1 : RegIdx) (imm : BitVec 12) (s : State) : StepResult :=
  s.load .half extendHalfSigned rd rs1 imm

/-- LW (R134). -/
def execLw (rd rs1 : RegIdx) (imm : BitVec 12) (s : State) : StepResult :=
  s.load .word extendWord rd rs1 imm

/-- LBU (R135). -/
def execLbu (rd rs1 : RegIdx) (imm : BitVec 12) (s : State) : StepResult :=
  s.load .byte extendByteUnsigned rd rs1 imm

/-- LHU (R136). -/
def execLhu (rd rs1 : RegIdx) (imm : BitVec 12) (s : State) : StepResult :=
  s.load .half extendHalfUnsigned rd rs1 imm

/-- SB (R138). -/
def execSb (rs2 rs1 : RegIdx) (imm : BitVec 12) (s : State) : StepResult :=
  s.store .byte rs2 rs1 imm

/-- SH (R139). -/
def execSh (rs2 rs1 : RegIdx) (imm : BitVec 12) (s : State) : StepResult :=
  s.store .half rs2 rs1 imm

/-- SW (R140). -/
def execSw (rs2 rs1 : RegIdx) (imm : BitVec 12) (s : State) : StepResult :=
  s.store .word rs2 rs1 imm

end Sys2Proof.Machine
end

