-- ==== Sys2Proof/Machine/MulDiv.lean ====
section
/-! DEFINITION. The multiply and divide instructions (46_muldiv.md). None raises a stop cause (R224). -/

namespace Sys2Proof.Machine

/-- MUL (R190). -/
def execMul (rd rs1 rs2 : RegIdx) (s : State) : StepResult :=
  s.completeWith rd (mulLow (s.readReg rs1) (s.readReg rs2))

/-- MULH (R191). -/
def execMulh (rd rs1 rs2 : RegIdx) (s : State) : StepResult :=
  s.completeWith rd (mulHighSigned (s.readReg rs1) (s.readReg rs2))

/-- MULHSU (R192). -/
def execMulhsu (rd rs1 rs2 : RegIdx) (s : State) : StepResult :=
  s.completeWith rd (mulHighSignedUnsigned (s.readReg rs1) (s.readReg rs2))

/-- MULHU (R193). -/
def execMulhu (rd rs1 rs2 : RegIdx) (s : State) : StepResult :=
  s.completeWith rd (mulHighUnsigned (s.readReg rs1) (s.readReg rs2))

/-- DIV (R194). -/
def execDiv (rd rs1 rs2 : RegIdx) (s : State) : StepResult :=
  s.completeWith rd (divSigned (s.readReg rs1) (s.readReg rs2))

/-- DIVU (R195). -/
def execDivu (rd rs1 rs2 : RegIdx) (s : State) : StepResult :=
  s.completeWith rd (divUnsigned (s.readReg rs1) (s.readReg rs2))

/-- REM (R196). -/
def execRem (rd rs1 rs2 : RegIdx) (s : State) : StepResult :=
  s.completeWith rd (remSigned (s.readReg rs1) (s.readReg rs2))

/-- REMU (R197). -/
def execRemu (rd rs1 rs2 : RegIdx) (s : State) : StepResult :=
  s.completeWith rd (remUnsigned (s.readReg rs1) (s.readReg rs2))

end Sys2Proof.Machine
end

