-- ==== Sys2Proof/Machine/System.lean ====
section
/-! DEFINITION. ECALL and EBREAK (47_system.md). -/

namespace Sys2Proof.Machine

/-- ECALL: `x[10] <- 0xFFFFFFFF` and execution continues; a stub, not a call (R210). -/
def execEcall (s : State) : StepResult := s.completeWith 10 0xFFFFFFFF

/-- EBREAK: commit pc + 4 first, then halt with HALT_EBREAK at this instruction's address (R211). -/
def execEbreak (s : State) : StepResult :=
  .next ((s.commitPc s.pcPlus4).takeStop (haltEbreakStop s.pc))

end Sys2Proof.Machine
end

