-- ==== Sys2Proof/Machine/UpperImmediate.lean ====
section
/-! DEFINITION. LUI and AUIPC (41_upper_immediate.md). -/

namespace Sys2Proof.Machine

/-- LUI: `x[rd] <- imm_U` (R100). -/
def execLui (rd : RegIdx) (imm : BitVec 20) (s : State) : StepResult :=
  s.completeWith rd (immU imm)

/-- AUIPC: `x[rd] <- pc + imm_U`, pc this instruction's address (R101). -/
def execAuipc (rd : RegIdx) (imm : BitVec 20) (s : State) : StepResult :=
  s.completeWith rd (s.pc + immU imm)

end Sys2Proof.Machine
end

