-- ==== Sys2Proof/Machine/Step.lean ====
section
/-! DEFINITION. One step of the core (40_execution_cycle.md R90). -/

namespace Sys2Proof.Machine

/-- `Step()` (40_execution_cycle.md R90): nothing while halted (10_state.md R31), else fetch, decode,
execute and commit. -/
def step (s : State) : Host.Outcome State Fault Refusal :=
  if s.halted then .next s
  else
    match s.fetch with
    | none => .next s.stopFetchFault
    | some w =>
      match decodeWord w with
      | .error _ => .next ((s.recordFetch w).stopDecodeFault w)
      | .ok i => exec i (s.recordFetch w)

/-- The word with the low nbits bits of w, the others 0, stored where the next step of a running core
fetches: at pc. It stands for the image load that places a program (20_memory.md R60; log entry 7). -/
def State.withFetchWord (s : State) (nbits w : Nat) : State :=
  s.storeFetchWord (BitVec.ofNat 32 (w % 2 ^ nbits))

end Sys2Proof.Machine
end

