-- ==== Sys2Proof/Machine/Boot.lean ====
section
/-! DEFINITION. The host's operations before a run: the image load (20_memory.md R60) and the construction
of the core (70_reset_and_hazards.md R250). They are no part of a step. -/

namespace Sys2Proof.Machine

/-- `ram[k] := bytes[k]` from address a up. -/
def Memory.writeBytes : Memory → Nat → List Byte → Memory
  | m, _, [] => m
  | m, a, b :: bs => Memory.writeBytes (m.insert a b) (a + 1) bs

/-- `load_image(bytes)` (20_memory.md R60) into a RAM of 4 * ramWords bytes: it fails, and copies nothing,
when the image is longer than RAM; else the bytes stand at offset 0 up. -/
def loadImage (ramWords : Nat) (ram : Memory) (bytes : List Byte) : Option Memory :=
  if 4 * ramWords < bytes.length then none
  else some (ram.writeBytes Config.ramBase bytes)

/-- Construction of the core over a bus (70_reset_and_hazards.md R250 step 3): the state of 10_state.md
Table 10-2, with the OPEN parameters REG_INIT and CI_INIT as arguments. Over a bus that already ran it
keeps that RAM's contents; the new core's output record starts empty (log entry 5). -/
def construct (ramWords : Nat) (ram : Memory) (regInit : Vector Word 31) (ciInit : Word) : State where
  pc := Config.resetPc
  regs := regInit
  halted := false
  currentInstruction := ciInit
  stop := StopStatus.whileRunning
  ramWords := ramWords
  ram := ram
  output := []

/-- The whole sequence of R250: a bus of fresh RAM, the image load, and the core if the load succeeds. -/
def boot (ramWords : Nat) (bytes : List Byte) (regInit : Vector Word 31) (ciInit : Word) : Option State :=
  match loadImage ramWords [] bytes with
  | none => none
  | some ram => some (construct ramWords ram regInit ciInit)

end Sys2Proof.Machine
end

