-- ==== Sys2Proof/Machine/RunLoop.lean ====
section
/-! DEFINITION. The run loop (40_execution_cycle.md R95) with a step budget, as 93_implementation_defined.md
U18 allows a model: the core itself has no limit (log entry 12). -/

namespace Sys2Proof.Machine

/-- `while not halted: Step()`, for at most the given number of steps. -/
def run : Nat → State → StepResult
  | 0, s => .next s
  | k + 1, s =>
    if s.halted then .next s
    else
      match step s with
      | .next t => run k t
      | .fault r => .fault r
      | .refused r => .refused r

end Sys2Proof.Machine
end

