-- ==== Sys2Proof/Safety.lean ====
section
/-! DEFINITION. The terms in which claims are made: what an instruction leaves unchanged, what a stop leaves
unchanged, the opcode classes that can stop, and the invariant of the states a run can reach. -/

namespace Sys2Proof.Machine

/-! ## Frames -/

/-- t has the same RAM as s: the same size and every byte reading the same. -/
def State.SameRam (s t : State) : Prop :=
  t.ramSize = s.ramSize ∧ ∀ a : Nat, t.ramByte a = s.ramByte a

/-- t has the same general registers as s. -/
def State.SameRegs (s t : State) : Prop := ∀ r : RegIdx, t.readReg r = s.readReg r

/-- t has the same halt flag, stop status and last fetched word as s. -/
def State.SameControl (s t : State) : Prop :=
  t.halted = s.halted ∧ t.stop = s.stop ∧ t.currentInstruction = s.currentInstruction

/-- t is s after an instruction that writes v to register rd (nothing if rd is x0), goes on at nextPc, and
changes nothing else: no other register, no byte of RAM, no output event, no control state. -/
def State.RegisterResult (s t : State) (rd : RegIdx) (v nextPc : Word) : Prop :=
  t.pc = nextPc ∧ (∀ r : RegIdx, t.readReg r = if r = rd ∧ r ≠ 0 then v else s.readReg r) ∧
    s.SameRam t ∧ t.output = s.output ∧ s.SameControl t

/-- t is s after an instruction that writes no register and goes on at nextPc, and changes nothing else. -/
def State.OnlyPcResult (s t : State) (nextPc : Word) : Prop :=
  t.pc = nextPc ∧ s.SameRegs t ∧ s.SameRam t ∧ t.output = s.output ∧ s.SameControl t

/-- t is s after a store of the n low bytes of v at address a: byte k of v is at a + k, every other byte of
RAM reads as before, and nothing else changes but pc, which is nextPc. -/
def State.StoreResult (s t : State) (a n : Nat) (v nextPc : Word) : Prop :=
  t.pc = nextPc ∧ s.SameRegs t ∧ t.ramSize = s.ramSize ∧
    (∀ k : Nat, k < n → t.ramByte (a + k) = v.extractLsb' (8 * k) 8) ∧
    (∀ b : Nat, (b < a ∨ a + n ≤ b) → t.ramByte b = s.ramByte b) ∧
    t.output = s.output ∧ s.SameControl t

/-- t is s after a store to a device word: one more output event, and nothing else but pc, which is
nextPc. -/
def State.EventResult (s t : State) (e : OutputEvent) (nextPc : Word) : Prop :=
  t.pc = nextPc ∧ s.SameRegs t ∧ s.SameRam t ∧ t.output = s.output ++ [e] ∧ s.SameControl t

/-- t is s after a stop that commits nothing (60_exceptions.md R226): halted, with stop status st, and
every register, pc, every byte of RAM, the output and the last fetched word as in s. -/
def State.StoppedWith (s t : State) (st : StopStatus) : Prop :=
  t.halted = true ∧ t.stop = st ∧ t.pc = s.pc ∧ s.SameRegs t ∧ s.SameRam t ∧ t.output = s.output ∧
    t.currentInstruction = s.currentInstruction

/-! ## Safe runs -/

/-- The core has halted for a reason other than EBREAK: a fault of 60_exceptions.md Table 60-1. -/
def State.Faulted (s : State) : Prop :=
  s.halted = true ∧ s.stop.cause ≠ .haltEbreak

/-- The core has ended its run by EBREAK (47_system.md R211). -/
def State.CleanHalt (s : State) : Prop :=
  s.halted = true ∧ s.stop.cause = .haltEbreak

/-! ## Instruction classes (60_exceptions.md Table 60-1) -/

/-- The mnemonics of the loads. -/
def loadMnemonics : List String := ["LB", "LH", "LW", "LBU", "LHU"]

/-- The mnemonics of the loads that can be misaligned. -/
def wideLoadMnemonics : List String := ["LH", "LW", "LHU"]

/-- The mnemonics of the stores. -/
def storeMnemonics : List String := ["SB", "SH", "SW"]

/-! ## The invariant of reachable states -/

/-- RAM_SIZE is admissible: 0 < RAM_SIZE ≤ 0x8000_0000 (92_eei_decisions.md D11; a multiple of 4 by the
form of the state). -/
def State.RamSizeAdmissible (s : State) : Prop := 0 < s.ramSize ∧ s.ramSize ≤ 0x80000000

/-- RAM is in canonical form and lists only addresses of RAM. -/
def State.RamWellFormed (s : State) : Prop :=
  s.ram.wf ∧ ∀ c ∈ s.ram, Config.ramBase ≤ c.1 ∧ c.1 < Config.ramBase + s.ramSize

/-- The stop status of a halted core has the payload of 60_exceptions.md Table 60-2 for its cause, and agrees
with pc and the last fetched word: pc is the address after an EBREAK and the faulting instruction's
address after every other stop (R226). -/
def State.StopConsistent (s : State) : Prop :=
  match s.stop.cause with
  | .running => False
  | .haltEbreak => s.stop = haltEbreakStop s.stop.pc ∧ s.pc = s.stop.pc + 4
  | .loadMisaligned =>
    ∃ n : Width, s.stop = loadMisalignedStop s.stop.addr n s.pc ∧ s.busRead s.stop.addr n = .misaligned
  | .fatalMem =>
    ∃ n : Width,
      (s.stop = fatalMemStop .read s.stop.addr n s.pc ∧ s.busRead s.stop.addr n = .fatal) ∨
        (s.stop = fatalMemStop .write s.stop.addr n s.pc ∧ ∀ v, s.busWrite s.stop.addr n v = none)
  | .fetchFault => s.stop = fetchFaultStop s.pc ∧ s.fetch = none
  | .decodeFault =>
    s.stop = decodeFaultStop s.currentInstruction s.pc ∧
      ∃ e, decodeWord s.currentInstruction = .error e

/-- What holds of every state a run reaches: RAM_SIZE is admissible, RAM is canonical and inside its
region, a running core has the RUNNING stop status, and a halted one a consistent stop status. -/
def State.Inv (s : State) : Prop :=
  s.RamSizeAdmissible ∧ s.RamWellFormed ∧
    (s.halted = false → s.stop = StopStatus.whileRunning) ∧ (s.halted = true → s.StopConsistent)

end Sys2Proof.Machine
end

