-- ==== Sys2Proof/Certificates/Slice0/Obligations.lean ====
section
/-! DEFINITION. The statements for the provers. Each docstring names the rules of spec/ it formalises; where a
clause rests on one of the spec's own decisions (92_eei_decisions.md D<n>) or on a log entry of the
model, the docstring says so. In the statements about an instruction, the first part says which word
the decoder reads as it, and the second gives a NEXT state for every state and operands. -/

open Sys2Proof Sys2Proof.Machine

/-! ## Encoding -/

/-- Decoding the word of any well-formed instruction gives the instruction back, whatever its operands
(30_encoding.md sections 1 to 3; the layouts are the spec's decision D1). -/
def Obligations.DecodeOfEncode : Prop :=
  ∀ i : Instr, i.wf = true → decodeWord (encode i) = .ok i

/-- A word that decodes is the word of the instruction it decodes to, and that instruction is well formed:
each instruction has one word and no bit of a word is ignored (30_encoding.md sections 1 to 4; D1, D2). -/
def Obligations.EncodeOfDecode : Prop :=
  ∀ (w : Word) (i : Instr), decodeWord w = .ok i → encode i = w ∧ i.wf = true

/-- The decoder agrees with the opcode table: a word decodes to an instruction of a row exactly when
`(inst & mask) = match` for that row, and at most one row matches a word (30_encoding.md section 3; D1,
D2). -/
def Obligations.DecodeAgreesWithOpcodeTable : Prop :=
  (∀ (w : Word) (i : Instr), decodeWord w = .ok i →
    ∃ row ∈ opcodeTable, row.mnemonic = i.mnemonic ∧ w &&& row.mask = row.pattern) ∧
  (∀ (w : Word), ∀ row ∈ opcodeTable, w &&& row.mask = row.pattern →
    ∃ i : Instr, decodeWord w = .ok i ∧ i.mnemonic = row.mnemonic) ∧
  (∀ (w : Word), ∀ p ∈ opcodeTable, ∀ q ∈ opcodeTable,
    w &&& p.mask = p.pattern → w &&& q.mask = q.pattern → p = q)

/-- The words that do not decode are the illegal words of 30_encoding.md section 4 and no others: an unlisted
major opcode, or an unlisted funct3 or funct7 under a listed one, or another SYSTEM word (D2, D3, D4). -/
def Obligations.IllegalWordsAreRefused : Prop :=
  ∀ w : Word,
    let opcode := w.extractLsb' 0 7
    let funct3 := w.extractLsb' 12 3
    let funct7 := w.extractLsb' 25 7
    (∃ e : DecodeError, decodeWord w = .error e) ↔
      (opcode ∉ [0x37#7, 0x17#7, 0x6F#7, 0x67#7, 0x63#7, 0x03#7, 0x23#7, 0x13#7, 0x33#7, 0x73#7]) ∨
      (opcode = 0x67#7 ∧ funct3 ≠ 0) ∨
      (opcode = 0x63#7 ∧ funct3 ∈ [2#3, 3#3]) ∨
      (opcode = 0x03#7 ∧ funct3 ∈ [3#3, 6#3, 7#3]) ∨
      (opcode = 0x23#7 ∧ funct3 ∈ [3#3, 4#3, 5#3, 6#3, 7#3]) ∨
      (opcode = 0x13#7 ∧ funct3 = 1#3 ∧ funct7 ≠ 0) ∨
      (opcode = 0x13#7 ∧ funct3 = 5#3 ∧ funct7 ∉ [0#7, 0x20#7]) ∨
      (opcode = 0x33#7 ∧ funct7 ∉ [0#7, 0x20#7, 1#7]) ∨
      (opcode = 0x33#7 ∧ funct7 = 0x20#7 ∧ funct3 ∉ [0#3, 5#3]) ∨
      (opcode = 0x73#7 ∧ w ∉ [0x00000073#32, 0x00100073#32])

/-- A few words of spec/95_test_vectors.md decode to the instructions it names (sanity). -/
def Obligations.SampleWordsDecode : Prop :=
  decodeWord 0x123450B7 = .ok (.lui 1 0x12345) ∧
  decodeWord 0xFE209CE3 = .ok (.bne 1 2 (-8)) ∧
  decodeWord 0xF01FF2EF = .ok (.jal 5 (-256)) ∧
  decodeWord 0xFE312C23 = .ok (.sw 3 2 (-8)) ∧
  decodeWord 0x4040D193 = .ok (.srai 3 1 4) ∧
  decodeWord 0x0220E1B3 = .ok (.rem 3 1 2) ∧
  decodeWord 0x00100073 = .ok .ebreak

/-! ## Reset and boot -/

/-- The reset state: pc = 0x8000_0000, not halted, stop cause RUNNING with an empty payload
(10_state.md Table 10-2). That x1 to x31 and current_instruction are 0, RAM_SIZE 32 MiB, every RAM byte
RAM_INIT and no event sent yet is the model's choice (log entries 2, 3, 1, 4, 5). -/
def Obligations.ResetStateValues : Prop :=
  State.reset.pc = 0x80000000 ∧ State.reset.halted = false ∧
    State.reset.stop =
      { cause := .running, addr := 0, width := 0, access := .none, pc := 0, word := 0 } ∧
    (∀ r : RegIdx, State.reset.readReg r = 0) ∧ State.reset.currentInstruction = 0 ∧
    State.reset.ramSize = 0x2000000 ∧
    (∀ k : Nat, State.reset.ramByte (0x80000000 + k) = Config.ramInit k) ∧ State.reset.output = []

/-- The boot sequence (20_memory.md section 7, 70_reset_and_hazards.md section 1; D10, D22): an image longer
than RAM gives no core; any other gives a core at RAM_BASE whose RAM holds the image from offset 0 and
RAM_INIT above it, whatever REG_INIT and CI_INIT are. -/
def Obligations.BootLoadsTheImage : Prop :=
  ∀ (ramWords : Nat) (bytes : List Byte) (regInit : Vector Word 31) (ciInit : Word),
    (4 * ramWords < bytes.length → boot ramWords bytes regInit ciInit = none) ∧
    (bytes.length ≤ 4 * ramWords →
      ∃ s, boot ramWords bytes regInit ciInit = some s ∧ s.pc = 0x80000000 ∧ s.halted = false ∧
        s.stop = StopStatus.whileRunning ∧ s.ramSize = 4 * ramWords ∧ s.currentInstruction = ciInit ∧
        s.output = [] ∧ s.readReg 0 = 0 ∧
        (∀ r : Fin 31, s.readReg (BitVec.ofNat 5 (r.val + 1)) = regInit[r]) ∧
        (∀ k : Fin bytes.length, s.ramByte (0x80000000 + k.val) = bytes[k]) ∧
        (∀ k : Nat, bytes.length ≤ k → s.ramByte (0x80000000 + k) = Config.ramInit k))

/-- Every booted core of admissible RAM_SIZE satisfies the invariant (10_state.md section 6; D11). -/
def Obligations.BootedStatesSatisfyInv : Prop :=
  ∀ (ramWords : Nat) (bytes : List Byte) (regInit : Vector Word 31) (ciInit : Word) (s : State),
    0 < ramWords → ramWords ≤ 0x20000000 → boot ramWords bytes regInit ciInit = some s → s.Inv

/-- The reset state satisfies the invariant (10_state.md section 6; log entry 1). -/
def Obligations.ResetSatisfiesInv : Prop := State.reset.Inv

/-- Every step keeps the invariant: RAM_SIZE stays admissible, RAM stays canonical and inside its region, a
running core keeps the RUNNING stop status, and a halted one has the payload of 60_exceptions.md
Table 60-2 for its cause, in agreement with pc, the last fetched word, and the access that failed. -/
def Obligations.StepKeepsInv : Prop :=
  ∀ s t : State, s.Inv → step s = .next t → t.Inv

/-! ## The step -/

/-- A step runs the decoded instruction: when a running core's pc is an aligned RAM address and the four
bytes there decode to i, the step is exec of i on the state with the fetched word recorded. -/
def Obligations.StepRunsTheDecodedInstruction : Prop :=
  ∀ (s : State) (i : Instr), s.halted = false →
    0x80000000 ≤ s.pc.toNat → s.pc.toNat < 0x80000000 + s.ramSize → s.pc.toNat % 4 = 0 →
    decodeBytes [s.ramByte s.pc.toNat, s.ramByte (s.pc.toNat + 1), s.ramByte (s.pc.toNat + 2),
      s.ramByte (s.pc.toNat + 3)] = .ok (i, []) →
    step s = exec i { s with
      currentInstruction := s.ramByte (s.pc.toNat + 3) ++ s.ramByte (s.pc.toNat + 2) ++
        s.ramByte (s.pc.toNat + 1) ++ s.ramByte s.pc.toNat }

/-- A step always has a next state: no fault and no refusal of the host's kind (log entry 6). -/
def Obligations.StepAlwaysHasANextState : Prop :=
  ∀ s : State, ∃ t, step s = .next t

/-- A step of a halted core changes nothing, and so does a run of any length (10_state.md section 4; D12). -/
def Obligations.HaltedCoreNeverChanges : Prop :=
  ∀ s : State, s.halted = true → step s = .next s ∧ ∀ k : Nat, run k s = .next s

/-- A run that has halted gives the same end state with any larger budget
(40_execution_cycle.md section 2). -/
def Obligations.RunEndsAtTheHalt : Prop :=
  ∀ (s t : State) (k j : Nat), run k s = .next t → t.halted = true → run (k + j) s = .next t

/-- The fetch (40_execution_cycle.md section 1, 20_memory.md section 4). From an aligned RAM address it
records the little-endian word there; from the device window, whatever the alignment, it records 0 and
the core stops with DECODE_FAULT (log entry 9); from anywhere else, and from a misaligned RAM address
(D19), the core stops with FETCH_FAULT and current_instruction stays (D23). -/
def Obligations.FetchRecordsOrStops : Prop :=
  ∀ s : State, s.halted = false →
    (0x80000000 ≤ s.pc.toNat → s.pc.toNat < 0x80000000 + s.ramSize → s.pc.toNat % 4 = 0 →
      ∃ t, step s = .next t ∧
        t.currentInstruction = s.ramByte (s.pc.toNat + 3) ++ s.ramByte (s.pc.toNat + 2) ++
          s.ramByte (s.pc.toNat + 1) ++ s.ramByte s.pc.toNat) ∧
    (0x10000000 ≤ s.pc.toNat → s.pc.toNat < 0x1000000C →
      ∃ t, step s = .next t ∧ t.currentInstruction = 0 ∧
        ({ s with currentInstruction := 0 } : State).StoppedWith t
          { cause := .decodeFault, addr := 0, width := 0, access := .none, pc := s.pc, word := 0 }) ∧
    (¬ (0x10000000 ≤ s.pc.toNat ∧ s.pc.toNat < 0x1000000C) →
      (¬ (0x80000000 ≤ s.pc.toNat ∧ s.pc.toNat < 0x80000000 + s.ramSize) ∨ s.pc.toNat % 4 ≠ 0) →
      ∃ t, step s = .next t ∧
        s.StoppedWith t
          { cause := .fetchFault, addr := s.pc, width := 4, access := .fetch, pc := s.pc, word := 0 })

/-- An illegal word (47_system.md R213): the step halts with DECODE_FAULT, the raw word and its address,
changes no register, pc, RAM byte or output, and execution does not continue past it. -/
def Obligations.IllegalWordStopsTheCore : Prop :=
  ∀ (s : State) (w : Word) (e : DecodeError), s.halted = false → s.fetch = some w →
    decodeWord w = .error e →
    ∃ t, step s = .next t ∧ t.halted = true ∧
      t.stop = { cause := .decodeFault, addr := 0, width := 0, access := .none, pc := s.pc, word := w } ∧
      t.pc = s.pc ∧ s.SameRegs t ∧ s.SameRam t ∧ t.output = s.output ∧ t.currentInstruction = w ∧
      step t = .next t

/-- Every instruction executed was fetched from a RAM address that is a multiple of 4: a step of a running core
that ends in neither a fetch nor a decode fault started there (10_state.md section 3, 90_conflicts.md C1;
D19). -/
def Obligations.ExecutedInstructionsAreAligned : Prop :=
  ∀ s t : State, s.halted = false → s.stop.cause = .running → step s = .next t →
    t.stop.cause ≠ .fetchFault → t.stop.cause ≠ .decodeFault →
    s.pc.toNat % 4 = 0 ∧ 0x80000000 ≤ s.pc.toNat ∧ s.pc.toNat < 0x80000000 + s.ramSize

/-- A stop of a step (60_exceptions.md R226): it sets halted and writes the stop status with its payload;
a stop other than HALT_EBREAK writes no register, leaves pc, writes no RAM byte and emits no event;
HALT_EBREAK commits pc + 4 first; a FETCH_FAULT also leaves current_instruction. -/
def Obligations.StopsAreExact : Prop :=
  ∀ s t : State, s.halted = false → step s = .next t → t.halted = true →
    t.StopConsistent ∧ s.SameRegs t ∧ s.SameRam t ∧ t.output = s.output ∧
    (t.stop.cause ≠ .haltEbreak → t.pc = s.pc) ∧
    (t.stop.cause = .haltEbreak → t.pc = s.pc + 4) ∧
    (t.stop.cause = .fetchFault → t.currentInstruction = s.currentInstruction)

/-- An instruction that raises commits nothing, only loads and stores can raise during execute, and execute
raises neither a fetch fault nor a decode fault (40_execution_cycle.md R94); EBREAK is the clean halt, not
a fault. -/
def Obligations.RaisingInstructionsCommitNothing : Prop :=
  ∀ (i : Instr) (s t : State), s.halted = false → exec i s = .next t → t.halted = true →
    i ≠ .ebreak →
    s.StoppedWith t t.stop ∧
      (i.mnemonic ∈ ["LB", "LH", "LW", "LBU", "LHU"] ∨ i.mnemonic ∈ ["SB", "SH", "SW"]) ∧
      t.stop.cause ≠ .fetchFault ∧ t.stop.cause ≠ .decodeFault

/-- Which instruction raises which cause (60_exceptions.md Table 60-1; the causes' names are D13). -/
def Obligations.StopCausesByInstruction : Prop :=
  ∀ (i : Instr) (s t : State), s.halted = false → exec i s = .next t → t.halted = true →
    (t.stop.cause = .haltEbreak ∧ i = .ebreak) ∨
    (t.stop.cause = .loadMisaligned ∧ i.mnemonic ∈ ["LH", "LW", "LHU"]) ∨
    (t.stop.cause = .fatalMem ∧ t.stop.access = .read ∧
      i.mnemonic ∈ ["LB", "LH", "LW", "LBU", "LHU"]) ∨
    (t.stop.cause = .fatalMem ∧ t.stop.access = .write ∧ i.mnemonic ∈ ["SB", "SH", "SW"])

/-- A step emits at most one output event, after every earlier one, and only a store instruction that
completes emits (20_memory.md section 3; D25). -/
def Obligations.StepEmitsAtMostOneEvent : Prop :=
  ∀ s t : State, step s = .next t →
    t.output = s.output ∨
    (t.halted = false ∧ ∃ e, t.output = s.output ++ [e] ∧
      ∃ w i, s.fetch = some w ∧ decodeWord w = .ok i ∧ i.mnemonic ∈ ["SB", "SH", "SW"])

/-- Nothing reads the output record, the model's own field (log entry 5): a core with another record takes
the same step and emits the same events. -/
def Obligations.OutputRecordIsNeverRead : Prop :=
  ∀ (s : State) (o : List OutputEvent),
    ∃ t d, step s = .next t ∧ t.output = s.output ++ d ∧
      step { s with output := o } = .next { t with output := o ++ d }

/-- No instruction reads or writes current_instruction (10_state.md section 4). -/
def Obligations.CurrentInstructionIsNeverRead : Prop :=
  ∀ (i : Instr) (s : State) (w : Word),
    ∃ t, exec i s = .next t ∧ t.currentInstruction = s.currentInstruction ∧
      exec i { s with currentInstruction := w } = .next { t with currentInstruction := w }

/-! ## Registers and the bus -/

/-- The register file (10_state.md R21 and the write primitive of R22): x0 reads 0, x1 to x31 read their
storage, a write to x0 is discarded, and a write to another register is read back and changes nothing
else. -/
def Obligations.RegisterFileReadAndWrite : Prop :=
  ∀ s : State, s.readReg 0 = 0 ∧
    (∀ k : Fin 31, s.readReg (BitVec.ofNat 5 (k.val + 1)) = s.regs[k]) ∧
    (∀ v : Word, s.writeReg 0 v = s) ∧
    ∀ (i : RegIdx) (v : Word), i ≠ 0 →
      (s.writeReg i v).readReg i = v ∧ (∀ r : RegIdx, r ≠ i → (s.writeReg i v).readReg r = s.readReg r) ∧
      s.SameRam (s.writeReg i v) ∧ (s.writeReg i v).pc = s.pc ∧ (s.writeReg i v).output = s.output ∧
      s.SameControl (s.writeReg i v)

/-- The bus read (20_memory.md section 2; D8, D16): the window first, then the RAM bounds, then alignment;
the value is little-endian. -/
def Obligations.BusReadDecodesTheAddress : Prop :=
  ∀ (s : State) (a : Word) (n : Width),
    (0x10000000 ≤ a.toNat ∧ a.toNat < 0x1000000C → s.busRead a n = .ok 0) ∧
    (¬ (0x10000000 ≤ a.toNat ∧ a.toNat < 0x1000000C) →
      ¬ (0x80000000 ≤ a.toNat ∧ a.toNat < 0x80000000 + s.ramSize) → s.busRead a n = .fatal) ∧
    (0x80000000 ≤ a.toNat ∧ a.toNat < 0x80000000 + s.ramSize → a.toNat % n.bytes ≠ 0 →
      s.busRead a n = .misaligned) ∧
    (0x80000000 ≤ a.toNat ∧ a.toNat < 0x80000000 + s.ramSize → a.toNat % n.bytes = 0 →
      a.toNat + n.bytes ≤ 0x80000000 + s.ramSize ∧
      ∃ v : Word, s.busRead a n = .ok v ∧
        (∀ k : Nat, k < n.bytes → v.extractLsb' (8 * k) 8 = s.ramByte (a.toNat + k)) ∧
        v.toNat < 2 ^ (8 * n.bytes))

/-- RAM round trip (20_memory.md section 3, derived there from R43, R44, R46): what a bus write stores at an
aligned RAM address, a bus read of the same width gives back. -/
def Obligations.RamRoundTrip : Prop :=
  ∀ (s : State) (a : Word) (n : Width) (v : Word), 0x80000000 ≤ a.toNat →
    a.toNat < 0x80000000 + s.ramSize → a.toNat % n.bytes = 0 → v.toNat < 2 ^ (8 * n.bytes) →
    ∃ t, s.busWrite a n v = some t ∧ t.busRead a n = .ok v

/-- Mixed-width view (20_memory.md section 7, derived there from R44): after a word write, byte reads and
half-word reads give the word's parts, the least significant at the lowest address. -/
def Obligations.MixedWidthViewOfAWord : Prop :=
  ∀ (s : State) (a : Word) (v : Word), 0x80000000 ≤ a.toNat → a.toNat < 0x80000000 + s.ramSize →
    a.toNat % 4 = 0 →
    ∃ t, s.busWrite a .word v = some t ∧
      (∀ k : Nat, k < 4 → t.busRead (a + BitVec.ofNat 32 k) .byte =
        .ok (BitVec.ofNat 32 (v.toNat / 2 ^ (8 * k) % 256))) ∧
      t.busRead a .half = .ok (BitVec.ofNat 32 (v.toNat % 65536)) ∧
      t.busRead (a + 2) .half = .ok (BitVec.ofNat 32 (v.toNat / 65536))

/-- Device words hold no state (20_memory.md section 3, derived there from R45 and R48; D7, D9, D25): a write
of any width at one of them appends exactly one event, and a read after it gives 0. -/
def Obligations.DeviceWriteEmitsOnceAndReadsZero : Prop :=
  ∀ (s : State) (a : Word) (c : Channel) (n m : Width) (v : Word),
    (a, c) ∈ [(0x10000000#32, Channel.char), (0x10000004#32, .dec), (0x10000008#32, .hex)] →
    ∃ t, s.busWrite a n v = some t ∧ t.output = s.output ++ [⟨c, n, v⟩] ∧ s.SameRam t ∧
      t.busRead a m = .ok 0

/-- The RAM edge (43_load_store.md section 4, derived there from R43; D11), for every admissible RAM_SIZE:
the last word reads, the byte past the end is fatal, a word two bytes before the end is misaligned, and
the word below RAM is fatal. -/
def Obligations.RamEdgeReads : Prop :=
  ∀ s : State, s.RamSizeAdmissible →
    (∃ v, s.busRead (BitVec.ofNat 32 (0x80000000 + s.ramSize - 4)) .word = .ok v) ∧
    s.busRead (BitVec.ofNat 32 (0x80000000 + s.ramSize)) .byte = .fatal ∧
    s.busRead (BitVec.ofNat 32 (0x80000000 + s.ramSize - 2)) .word = .misaligned ∧
    s.busRead 0x7FFFFFFC .word = .fatal

/-- A stored word is what a later fetch of its address gives, with no fence (20_memory.md section 6, derived
there from R52, R53, R56 and R90). -/
def Obligations.StoresAreSeenByTheFetch : Prop :=
  ∀ (s : State) (a v : Word), 0x80000000 ≤ a.toNat → a.toNat < 0x80000000 + s.ramSize →
    a.toNat % 4 = 0 →
    ∃ t, s.busWrite a .word v = some t ∧ ({ t with pc := a } : State).fetch = some v

/-! ## Upper immediates -/

/-- LUI (41_upper_immediate.md R100). -/
def Obligations.LuiLoadsTheUpperImmediate : Prop :=
  ∀ (rd : RegIdx) (imm : BitVec 20) (s : State),
    decodeWord (imm ++ rd ++ 0x37#7) = .ok (.lui rd imm) ∧
    ∃ t, exec (.lui rd imm) s = .next t ∧
      s.RegisterResult t rd (BitVec.ofNat 32 (imm.toNat * 2 ^ 12)) (s.pc + 4)

/-- AUIPC (41_upper_immediate.md R101). -/
def Obligations.AuipcAddsToItsOwnAddress : Prop :=
  ∀ (rd : RegIdx) (imm : BitVec 20) (s : State),
    decodeWord (imm ++ rd ++ 0x17#7) = .ok (.auipc rd imm) ∧
    ∃ t, exec (.auipc rd imm) s = .next t ∧
      s.RegisterResult t rd (BitVec.ofNat 32 (s.pc.toNat + imm.toNat * 2 ^ 12)) (s.pc + 4)

/-! ## Jumps and branches -/

/-- JAL (42_control_transfer.md section 1; the target is committed unchecked, D6). -/
def Obligations.JalLinksAndJumps : Prop :=
  ∀ (rd : RegIdx) (offset : BitVec 21) (s : State),
    (offset.toNat % 2 = 0 →
      decodeWord (offset.extractLsb' 20 1 ++ offset.extractLsb' 1 10 ++ offset.extractLsb' 11 1 ++
        offset.extractLsb' 12 8 ++ rd ++ 0x6F#7) = .ok (.jal rd offset)) ∧
    ∃ t, exec (.jal rd offset) s = .next t ∧
      s.RegisterResult t rd (s.pc + 4) (s.pc + BitVec.ofInt 32 offset.toInt)

/-- JALR (42_control_transfer.md section 1; D5: the target uses the old x[rs1] even when rd = rs1; D6): the
target is the sum with bit 0 cleared. -/
def Obligations.JalrLinksAndJumpsToTheOldRegister : Prop :=
  ∀ (rd rs1 : RegIdx) (imm : BitVec 12) (s : State),
    decodeWord (imm ++ rs1 ++ 0b000#3 ++ rd ++ 0x67#7) = .ok (.jalr rd rs1 imm) ∧
    ∃ t target, exec (.jalr rd rs1 imm) s = .next t ∧ s.RegisterResult t rd (s.pc + 4) target ∧
      target.toNat = (s.readReg rs1 + BitVec.ofInt 32 imm.toInt).toNat / 2 * 2

/-- BEQ and BNE (42_control_transfer.md R113, R114, with the common part of R112). -/
def Obligations.EqualityBranches : Prop :=
  ∀ (rs1 rs2 : RegIdx) (offset : BitVec 13) (s : State),
    let taken := s.pc + BitVec.ofInt 32 offset.toInt
    (offset.toNat % 2 = 0 →
      decodeWord (offset.extractLsb' 12 1 ++ offset.extractLsb' 5 6 ++ rs2 ++ rs1 ++ 0b000#3 ++
        offset.extractLsb' 1 4 ++ offset.extractLsb' 11 1 ++ 0x63#7) = .ok (.beq rs1 rs2 offset) ∧
      decodeWord (offset.extractLsb' 12 1 ++ offset.extractLsb' 5 6 ++ rs2 ++ rs1 ++ 0b001#3 ++
        offset.extractLsb' 1 4 ++ offset.extractLsb' 11 1 ++ 0x63#7) = .ok (.bne rs1 rs2 offset)) ∧
    (∃ t, exec (.beq rs1 rs2 offset) s = .next t ∧
      s.OnlyPcResult t (if s.readReg rs1 = s.readReg rs2 then taken else s.pc + 4)) ∧
    (∃ t, exec (.bne rs1 rs2 offset) s = .next t ∧
      s.OnlyPcResult t (if s.readReg rs1 ≠ s.readReg rs2 then taken else s.pc + 4))

/-- BLT and BGE (42_control_transfer.md R115, R116, with the common part of R112): signed comparison. -/
def Obligations.SignedBranches : Prop :=
  ∀ (rs1 rs2 : RegIdx) (offset : BitVec 13) (s : State),
    let taken := s.pc + BitVec.ofInt 32 offset.toInt
    (offset.toNat % 2 = 0 →
      decodeWord (offset.extractLsb' 12 1 ++ offset.extractLsb' 5 6 ++ rs2 ++ rs1 ++ 0b100#3 ++
        offset.extractLsb' 1 4 ++ offset.extractLsb' 11 1 ++ 0x63#7) = .ok (.blt rs1 rs2 offset) ∧
      decodeWord (offset.extractLsb' 12 1 ++ offset.extractLsb' 5 6 ++ rs2 ++ rs1 ++ 0b101#3 ++
        offset.extractLsb' 1 4 ++ offset.extractLsb' 11 1 ++ 0x63#7) = .ok (.bge rs1 rs2 offset)) ∧
    (∃ t, exec (.blt rs1 rs2 offset) s = .next t ∧
      s.OnlyPcResult t (if (s.readReg rs1).toInt < (s.readReg rs2).toInt then taken else s.pc + 4)) ∧
    (∃ t, exec (.bge rs1 rs2 offset) s = .next t ∧
      s.OnlyPcResult t (if (s.readReg rs1).toInt ≥ (s.readReg rs2).toInt then taken else s.pc + 4))

/-- BLTU and BGEU (42_control_transfer.md R117, R118, with the common part of R112): unsigned comparison. -/
def Obligations.UnsignedBranches : Prop :=
  ∀ (rs1 rs2 : RegIdx) (offset : BitVec 13) (s : State),
    let taken := s.pc + BitVec.ofInt 32 offset.toInt
    (offset.toNat % 2 = 0 →
      decodeWord (offset.extractLsb' 12 1 ++ offset.extractLsb' 5 6 ++ rs2 ++ rs1 ++ 0b110#3 ++
        offset.extractLsb' 1 4 ++ offset.extractLsb' 11 1 ++ 0x63#7) = .ok (.bltu rs1 rs2 offset) ∧
      decodeWord (offset.extractLsb' 12 1 ++ offset.extractLsb' 5 6 ++ rs2 ++ rs1 ++ 0b111#3 ++
        offset.extractLsb' 1 4 ++ offset.extractLsb' 11 1 ++ 0x63#7) = .ok (.bgeu rs1 rs2 offset)) ∧
    (∃ t, exec (.bltu rs1 rs2 offset) s = .next t ∧
      s.OnlyPcResult t (if (s.readReg rs1).toNat < (s.readReg rs2).toNat then taken else s.pc + 4)) ∧
    (∃ t, exec (.bgeu rs1 rs2 offset) s = .next t ∧
      s.OnlyPcResult t (if (s.readReg rs1).toNat ≥ (s.readReg rs2).toNat then taken else s.pc + 4))

/-! ## Loads and stores -/

/-- Effective addresses (43_load_store.md section 1; D17): base plus signed offset, modulo 2^32. -/
def Obligations.EffectiveAddresses : Prop :=
  ∀ (s : State) (rs1 : RegIdx) (imm : BitVec 12),
    s.loadAddress rs1 imm = BitVec.ofInt 32 ((s.readReg rs1).toNat + imm.toInt) ∧
    s.storeAddress rs1 imm = BitVec.ofInt 32 ((s.readReg rs1).toNat + imm.toInt)

/-- LB and LBU (43_load_store.md R132, R135). -/
def Obligations.ByteLoads : Prop :=
  ∀ (rd rs1 : RegIdx) (imm : BitVec 12) (s : State),
    let ea := s.loadAddress rs1 imm
    let inWindow := 0x10000000 ≤ ea.toNat ∧ ea.toNat < 0x1000000C
    let inRam := 0x80000000 ≤ ea.toNat ∧ ea.toNat < 0x80000000 + s.ramSize
    let fatal : StopStatus :=
      { cause := .fatalMem, addr := ea, width := 1, access := .read, pc := s.pc, word := 0 }
    decodeWord (imm ++ rs1 ++ 0b000#3 ++ rd ++ 0x03#7) = .ok (.lb rd rs1 imm) ∧
    decodeWord (imm ++ rs1 ++ 0b100#3 ++ rd ++ 0x03#7) = .ok (.lbu rd rs1 imm) ∧
    (inWindow → ∃ t u, exec (.lb rd rs1 imm) s = .next t ∧ exec (.lbu rd rs1 imm) s = .next u ∧
      s.RegisterResult t rd 0 (s.pc + 4) ∧ s.RegisterResult u rd 0 (s.pc + 4)) ∧
    (inRam → ∃ t u, exec (.lb rd rs1 imm) s = .next t ∧ exec (.lbu rd rs1 imm) s = .next u ∧
      s.RegisterResult t rd (BitVec.ofInt 32 (s.ramByte ea.toNat).toInt) (s.pc + 4) ∧
      s.RegisterResult u rd (BitVec.ofNat 32 (s.ramByte ea.toNat).toNat) (s.pc + 4)) ∧
    (¬ inWindow ∧ ¬ inRam →
      ∃ t u, exec (.lb rd rs1 imm) s = .next t ∧ exec (.lbu rd rs1 imm) s = .next u ∧
        s.StoppedWith t fatal ∧ s.StoppedWith u fatal)

/-- LH and LHU (43_load_store.md R133, R136). -/
def Obligations.HalfLoads : Prop :=
  ∀ (rd rs1 : RegIdx) (imm : BitVec 12) (s : State),
    let ea := s.loadAddress rs1 imm
    let inWindow := 0x10000000 ≤ ea.toNat ∧ ea.toNat < 0x1000000C
    let inRam := 0x80000000 ≤ ea.toNat ∧ ea.toNat < 0x80000000 + s.ramSize
    let half := s.ramByte (ea.toNat + 1) ++ s.ramByte ea.toNat
    let misaligned (st : StopStatus) : Prop :=
      st.cause = .loadMisaligned ∧ st.addr = ea ∧ st.width = 2 ∧ st.pc = s.pc
    let fatal : StopStatus :=
      { cause := .fatalMem, addr := ea, width := 2, access := .read, pc := s.pc, word := 0 }
    decodeWord (imm ++ rs1 ++ 0b001#3 ++ rd ++ 0x03#7) = .ok (.lh rd rs1 imm) ∧
    decodeWord (imm ++ rs1 ++ 0b101#3 ++ rd ++ 0x03#7) = .ok (.lhu rd rs1 imm) ∧
    (inWindow → ∃ t u, exec (.lh rd rs1 imm) s = .next t ∧ exec (.lhu rd rs1 imm) s = .next u ∧
      s.RegisterResult t rd 0 (s.pc + 4) ∧ s.RegisterResult u rd 0 (s.pc + 4)) ∧
    (inRam ∧ ea.toNat % 2 = 0 →
      ∃ t u, exec (.lh rd rs1 imm) s = .next t ∧ exec (.lhu rd rs1 imm) s = .next u ∧
        s.RegisterResult t rd (BitVec.ofInt 32 half.toInt) (s.pc + 4) ∧
        s.RegisterResult u rd (BitVec.ofNat 32 half.toNat) (s.pc + 4)) ∧
    (inRam ∧ ea.toNat % 2 ≠ 0 →
      ∃ t u, exec (.lh rd rs1 imm) s = .next t ∧ exec (.lhu rd rs1 imm) s = .next u ∧
        s.StoppedWith t t.stop ∧ misaligned t.stop ∧ s.StoppedWith u u.stop ∧ misaligned u.stop) ∧
    (¬ inWindow ∧ ¬ inRam →
      ∃ t u, exec (.lh rd rs1 imm) s = .next t ∧ exec (.lhu rd rs1 imm) s = .next u ∧
        s.StoppedWith t fatal ∧ s.StoppedWith u fatal)

/-- LW (43_load_store.md R134). -/
def Obligations.WordLoad : Prop :=
  ∀ (rd rs1 : RegIdx) (imm : BitVec 12) (s : State),
    let ea := s.loadAddress rs1 imm
    let inWindow := 0x10000000 ≤ ea.toNat ∧ ea.toNat < 0x1000000C
    let inRam := 0x80000000 ≤ ea.toNat ∧ ea.toNat < 0x80000000 + s.ramSize
    decodeWord (imm ++ rs1 ++ 0b010#3 ++ rd ++ 0x03#7) = .ok (.lw rd rs1 imm) ∧
    (inWindow → ∃ t, exec (.lw rd rs1 imm) s = .next t ∧ s.RegisterResult t rd 0 (s.pc + 4)) ∧
    (inRam ∧ ea.toNat % 4 = 0 →
      ∃ t, exec (.lw rd rs1 imm) s = .next t ∧
        s.RegisterResult t rd (s.ramByte (ea.toNat + 3) ++ s.ramByte (ea.toNat + 2) ++
          s.ramByte (ea.toNat + 1) ++ s.ramByte ea.toNat) (s.pc + 4)) ∧
    (inRam ∧ ea.toNat % 4 ≠ 0 →
      ∃ t, exec (.lw rd rs1 imm) s = .next t ∧ s.StoppedWith t t.stop ∧
        t.stop.cause = .loadMisaligned ∧ t.stop.addr = ea ∧ t.stop.width = 4 ∧ t.stop.pc = s.pc) ∧
    (¬ inWindow ∧ ¬ inRam →
      ∃ t, exec (.lw rd rs1 imm) s = .next t ∧
        s.StoppedWith t
          { cause := .fatalMem, addr := ea, width := 4, access := .read, pc := s.pc, word := 0 })

/-- SB (43_load_store.md section 3). That a byte store is accepted at a device word, the width and value its
event carries, and the fault at the other bytes of the window are the spec's own decisions (20_memory.md
section 3, 43_load_store.md section 4; D7, D9, D25; log entry 8). -/
def Obligations.ByteStore : Prop :=
  ∀ (rs2 rs1 : RegIdx) (imm : BitVec 12) (s : State),
    let ea := s.storeAddress rs1 imm
    let inRam := 0x80000000 ≤ ea.toNat ∧ ea.toNat < 0x80000000 + s.ramSize
    let devices := [(0x10000000#32, Channel.char), (0x10000004#32, .dec), (0x10000008#32, .hex)]
    decodeWord (imm.extractLsb' 5 7 ++ rs2 ++ rs1 ++ 0b000#3 ++ imm.extractLsb' 0 5 ++ 0x23#7) =
      .ok (.sb rs2 rs1 imm) ∧
    (∀ c : Channel, (ea, c) ∈ devices →
      ∃ t, exec (.sb rs2 rs1 imm) s = .next t ∧
        s.EventResult t ⟨c, .byte, BitVec.ofNat 32 ((s.readReg rs2).toNat % 256)⟩ (s.pc + 4)) ∧
    (inRam → ∃ t, exec (.sb rs2 rs1 imm) s = .next t ∧
      s.StoreResult t ea.toNat 1 (s.readReg rs2) (s.pc + 4)) ∧
    ((∀ c : Channel, (ea, c) ∉ devices) ∧ ¬ inRam →
      ∃ t, exec (.sb rs2 rs1 imm) s = .next t ∧
        s.StoppedWith t
          { cause := .fatalMem, addr := ea, width := 1, access := .write, pc := s.pc, word := 0 })

/-- SH (43_load_store.md section 3). That a half-word store is accepted at a device word, the width and value its
event carries, and the fault at the other bytes of the window are the spec's own decisions (20_memory.md
section 3, 43_load_store.md section 4; D7, D9, D25; log entry 8). -/
def Obligations.HalfStore : Prop :=
  ∀ (rs2 rs1 : RegIdx) (imm : BitVec 12) (s : State),
    let ea := s.storeAddress rs1 imm
    let inRam := 0x80000000 ≤ ea.toNat ∧ ea.toNat < 0x80000000 + s.ramSize
    let devices := [(0x10000000#32, Channel.char), (0x10000004#32, .dec), (0x10000008#32, .hex)]
    decodeWord (imm.extractLsb' 5 7 ++ rs2 ++ rs1 ++ 0b001#3 ++ imm.extractLsb' 0 5 ++ 0x23#7) =
      .ok (.sh rs2 rs1 imm) ∧
    (∀ c : Channel, (ea, c) ∈ devices →
      ∃ t, exec (.sh rs2 rs1 imm) s = .next t ∧
        s.EventResult t ⟨c, .half, BitVec.ofNat 32 ((s.readReg rs2).toNat % 65536)⟩ (s.pc + 4)) ∧
    (inRam ∧ ea.toNat % 2 = 0 → ∃ t, exec (.sh rs2 rs1 imm) s = .next t ∧
      s.StoreResult t ea.toNat 2 (s.readReg rs2) (s.pc + 4)) ∧
    ((∀ c : Channel, (ea, c) ∉ devices) ∧ (¬ inRam ∨ ea.toNat % 2 ≠ 0) →
      ∃ t, exec (.sh rs2 rs1 imm) s = .next t ∧
        s.StoppedWith t
          { cause := .fatalMem, addr := ea, width := 2, access := .write, pc := s.pc, word := 0 })

/-- SW (43_load_store.md section 3). That a word store is accepted at a device word, the width and value its
event carries, and the fault at the other bytes of the window are the spec's own decisions (20_memory.md
section 3, 43_load_store.md section 4; D7, D9, D25; log entry 8). -/
def Obligations.WordStore : Prop :=
  ∀ (rs2 rs1 : RegIdx) (imm : BitVec 12) (s : State),
    let ea := s.storeAddress rs1 imm
    let inRam := 0x80000000 ≤ ea.toNat ∧ ea.toNat < 0x80000000 + s.ramSize
    let devices := [(0x10000000#32, Channel.char), (0x10000004#32, .dec), (0x10000008#32, .hex)]
    decodeWord (imm.extractLsb' 5 7 ++ rs2 ++ rs1 ++ 0b010#3 ++ imm.extractLsb' 0 5 ++ 0x23#7) =
      .ok (.sw rs2 rs1 imm) ∧
    (∀ c : Channel, (ea, c) ∈ devices →
      ∃ t, exec (.sw rs2 rs1 imm) s = .next t ∧
        s.EventResult t ⟨c, .word, s.readReg rs2⟩ (s.pc + 4)) ∧
    (inRam ∧ ea.toNat % 4 = 0 → ∃ t, exec (.sw rs2 rs1 imm) s = .next t ∧
      s.StoreResult t ea.toNat 4 (s.readReg rs2) (s.pc + 4)) ∧
    ((∀ c : Channel, (ea, c) ∉ devices) ∧ (¬ inRam ∨ ea.toNat % 4 ≠ 0) →
      ∃ t, exec (.sw rs2 rs1 imm) s = .next t ∧
        s.StoppedWith t
          { cause := .fatalMem, addr := ea, width := 4, access := .write, pc := s.pc, word := 0 })

/-! ## Register-immediate instructions -/

/-- ADDI (44_alu_immediate.md R150). -/
def Obligations.AddImmediate : Prop :=
  ∀ (rd rs1 : RegIdx) (imm : BitVec 12) (s : State),
    decodeWord (imm ++ rs1 ++ 0b000#3 ++ rd ++ 0x13#7) = .ok (.addi rd rs1 imm) ∧
    ∃ t, exec (.addi rd rs1 imm) s = .next t ∧
      s.RegisterResult t rd (BitVec.ofInt 32 ((s.readReg rs1).toInt + imm.toInt)) (s.pc + 4)

/-- SLTI and SLTIU (44_alu_immediate.md section on R151 and R152, marked there as general knowledge, K13):
SLTIU compares with the sign-extended immediate read as unsigned. -/
def Obligations.SetLessThanImmediate : Prop :=
  ∀ (rd rs1 : RegIdx) (imm : BitVec 12) (s : State),
    decodeWord (imm ++ rs1 ++ 0b010#3 ++ rd ++ 0x13#7) = .ok (.slti rd rs1 imm) ∧
    decodeWord (imm ++ rs1 ++ 0b011#3 ++ rd ++ 0x13#7) = .ok (.sltiu rd rs1 imm) ∧
    (∃ t, exec (.slti rd rs1 imm) s = .next t ∧
      s.RegisterResult t rd (if (s.readReg rs1).toInt < imm.toInt then 1 else 0) (s.pc + 4)) ∧
    (∃ t, exec (.sltiu rd rs1 imm) s = .next t ∧
      s.RegisterResult t rd
        (if ((s.readReg rs1).toNat : Int) < imm.toInt % 4294967296 then 1 else 0) (s.pc + 4))

/-- XORI, ORI and ANDI, bit by bit (44_alu_immediate.md R153, R154, R155): bits 31 to 11 of the extended
immediate copy its bit 11. -/
def Obligations.LogicImmediate : Prop :=
  ∀ (rd rs1 : RegIdx) (imm : BitVec 12) (s : State),
    let a := s.readReg rs1
    let bit (j : Nat) : Bool := imm.getLsbD (min j 11)
    decodeWord (imm ++ rs1 ++ 0b100#3 ++ rd ++ 0x13#7) = .ok (.xori rd rs1 imm) ∧
    decodeWord (imm ++ rs1 ++ 0b110#3 ++ rd ++ 0x13#7) = .ok (.ori rd rs1 imm) ∧
    decodeWord (imm ++ rs1 ++ 0b111#3 ++ rd ++ 0x13#7) = .ok (.andi rd rs1 imm) ∧
    (∃ t v, exec (.xori rd rs1 imm) s = .next t ∧ s.RegisterResult t rd v (s.pc + 4) ∧
      ∀ j : Nat, j < 32 → v.getLsbD j = (a.getLsbD j ^^ bit j)) ∧
    (∃ t v, exec (.ori rd rs1 imm) s = .next t ∧ s.RegisterResult t rd v (s.pc + 4) ∧
      ∀ j : Nat, j < 32 → v.getLsbD j = (a.getLsbD j || bit j)) ∧
    (∃ t v, exec (.andi rd rs1 imm) s = .next t ∧ s.RegisterResult t rd v (s.pc + 4) ∧
      ∀ j : Nat, j < 32 → v.getLsbD j = (a.getLsbD j && bit j))

/-- SLLI and SRLI, bit by bit, zeros shifted in; an SLLI by 32 or more has no encoding: no word with
inst[25] = 1 under its opcode and funct3 decodes, whatever its other funct7 bits (44_alu_immediate.md R156,
R157). That SRLI's words with inst[25] = 1 do not decode is said by IllegalWordsAreRefused. -/
def Obligations.LogicalShiftImmediate : Prop :=
  ∀ (rd rs1 : RegIdx) (shamt : BitVec 5) (s : State),
    let a := s.readReg rs1
    let k := shamt.toNat
    decodeWord (0b0000000#7 ++ shamt ++ rs1 ++ 0b001#3 ++ rd ++ 0x13#7) = .ok (.slli rd rs1 shamt) ∧
    decodeWord (0b0000000#7 ++ shamt ++ rs1 ++ 0b101#3 ++ rd ++ 0x13#7) = .ok (.srli rd rs1 shamt) ∧
    (∀ funct7 : BitVec 7, funct7.getLsbD 0 = true →
      ∃ e, decodeWord (funct7 ++ shamt ++ rs1 ++ 0b001#3 ++ rd ++ 0x13#7) = .error e) ∧
    (∃ t v, exec (.slli rd rs1 shamt) s = .next t ∧ s.RegisterResult t rd v (s.pc + 4) ∧
      ∀ j : Nat, j < 32 → v.getLsbD j = (decide (k ≤ j) && a.getLsbD (j - k))) ∧
    (∃ t v, exec (.srli rd rs1 shamt) s = .next t ∧ s.RegisterResult t rd v (s.pc + 4) ∧
      ∀ j : Nat, j < 32 → v.getLsbD j = (decide (j + k < 32) && a.getLsbD (j + k)))

/-! ## Register-register instructions -/

/-- ADD and SUB (45_alu_register.md R170, R171). -/
def Obligations.AddAndSubtract : Prop :=
  ∀ (rd rs1 rs2 : RegIdx) (s : State),
    let a := s.readReg rs1
    let b := s.readReg rs2
    decodeWord (0b0000000#7 ++ rs2 ++ rs1 ++ 0b000#3 ++ rd ++ 0x33#7) = .ok (.add rd rs1 rs2) ∧
    decodeWord (0b0100000#7 ++ rs2 ++ rs1 ++ 0b000#3 ++ rd ++ 0x33#7) = .ok (.sub rd rs1 rs2) ∧
    (∃ t, exec (.add rd rs1 rs2) s = .next t ∧
      s.RegisterResult t rd (BitVec.ofInt 32 (a.toInt + b.toInt)) (s.pc + 4)) ∧
    (∃ t, exec (.sub rd rs1 rs2) s = .next t ∧
      s.RegisterResult t rd (BitVec.ofInt 32 (a.toInt - b.toInt)) (s.pc + 4))

/-- SLL and SRL, bit by bit, by the low 5 bits of x[rs2] (45_alu_register.md R172, R176). -/
def Obligations.LogicalShiftRegister : Prop :=
  ∀ (rd rs1 rs2 : RegIdx) (s : State),
    let a := s.readReg rs1
    let k := (s.readReg rs2).toNat % 32
    decodeWord (0b0000000#7 ++ rs2 ++ rs1 ++ 0b001#3 ++ rd ++ 0x33#7) = .ok (.sll rd rs1 rs2) ∧
    decodeWord (0b0000000#7 ++ rs2 ++ rs1 ++ 0b101#3 ++ rd ++ 0x33#7) = .ok (.srl rd rs1 rs2) ∧
    (∃ t v, exec (.sll rd rs1 rs2) s = .next t ∧ s.RegisterResult t rd v (s.pc + 4) ∧
      ∀ j : Nat, j < 32 → v.getLsbD j = (decide (k ≤ j) && a.getLsbD (j - k))) ∧
    (∃ t v, exec (.srl rd rs1 rs2) s = .next t ∧ s.RegisterResult t rd v (s.pc + 4) ∧
      ∀ j : Nat, j < 32 → v.getLsbD j = (decide (j + k < 32) && a.getLsbD (j + k)))

/-- SRAI and SRA, bit by bit, copies of bit 31 shifted in (44_alu_immediate.md on SRAI, 45_alu_register.md on
SRA; that the fill is the sign bit is marked there as general knowledge, K14). -/
def Obligations.ArithmeticShifts : Prop :=
  ∀ (rd rs1 rs2 : RegIdx) (shamt : BitVec 5) (s : State),
    let a := s.readReg rs1
    let k := (s.readReg rs2).toNat % 32
    decodeWord (0b0100000#7 ++ shamt ++ rs1 ++ 0b101#3 ++ rd ++ 0x13#7) = .ok (.srai rd rs1 shamt) ∧
    decodeWord (0b0100000#7 ++ rs2 ++ rs1 ++ 0b101#3 ++ rd ++ 0x33#7) = .ok (.sra rd rs1 rs2) ∧
    (∃ t v, exec (.srai rd rs1 shamt) s = .next t ∧ s.RegisterResult t rd v (s.pc + 4) ∧
      ∀ j : Nat, j < 32 →
        v.getLsbD j = if j + shamt.toNat < 32 then a.getLsbD (j + shamt.toNat) else a.getLsbD 31) ∧
    (∃ t v, exec (.sra rd rs1 rs2) s = .next t ∧ s.RegisterResult t rd v (s.pc + 4) ∧
      ∀ j : Nat, j < 32 → v.getLsbD j = if j + k < 32 then a.getLsbD (j + k) else a.getLsbD 31)

/-- SLT and SLTU (45_alu_register.md on SLT and SLTU, marked there as general knowledge, K13). -/
def Obligations.SetLessThanRegister : Prop :=
  ∀ (rd rs1 rs2 : RegIdx) (s : State),
    let a := s.readReg rs1
    let b := s.readReg rs2
    decodeWord (0b0000000#7 ++ rs2 ++ rs1 ++ 0b010#3 ++ rd ++ 0x33#7) = .ok (.slt rd rs1 rs2) ∧
    decodeWord (0b0000000#7 ++ rs2 ++ rs1 ++ 0b011#3 ++ rd ++ 0x33#7) = .ok (.sltu rd rs1 rs2) ∧
    (∃ t, exec (.slt rd rs1 rs2) s = .next t ∧
      s.RegisterResult t rd (if a.toInt < b.toInt then 1 else 0) (s.pc + 4)) ∧
    (∃ t, exec (.sltu rd rs1 rs2) s = .next t ∧
      s.RegisterResult t rd (if a.toNat < b.toNat then 1 else 0) (s.pc + 4))

/-- XOR, OR and AND, bit by bit (45_alu_register.md R175, R178, R179). -/
def Obligations.LogicRegister : Prop :=
  ∀ (rd rs1 rs2 : RegIdx) (s : State),
    let a := s.readReg rs1
    let b := s.readReg rs2
    decodeWord (0b0000000#7 ++ rs2 ++ rs1 ++ 0b100#3 ++ rd ++ 0x33#7) = .ok (.xor rd rs1 rs2) ∧
    decodeWord (0b0000000#7 ++ rs2 ++ rs1 ++ 0b110#3 ++ rd ++ 0x33#7) = .ok (.or rd rs1 rs2) ∧
    decodeWord (0b0000000#7 ++ rs2 ++ rs1 ++ 0b111#3 ++ rd ++ 0x33#7) = .ok (.and rd rs1 rs2) ∧
    (∃ t v, exec (.xor rd rs1 rs2) s = .next t ∧ s.RegisterResult t rd v (s.pc + 4) ∧
      ∀ j : Nat, j < 32 → v.getLsbD j = (a.getLsbD j ^^ b.getLsbD j)) ∧
    (∃ t v, exec (.or rd rs1 rs2) s = .next t ∧ s.RegisterResult t rd v (s.pc + 4) ∧
      ∀ j : Nat, j < 32 → v.getLsbD j = (a.getLsbD j || b.getLsbD j)) ∧
    (∃ t v, exec (.and rd rs1 rs2) s = .next t ∧ s.RegisterResult t rd v (s.pc + 4) ∧
      ∀ j : Nat, j < 32 → v.getLsbD j = (a.getLsbD j && b.getLsbD j))

/-! ## Multiply and divide -/

/-- MUL (46_muldiv.md R190): the low half of the exact product, the same for signed and unsigned operands. -/
def Obligations.MultiplyLow : Prop :=
  ∀ (rd rs1 rs2 : RegIdx) (s : State),
    let a := s.readReg rs1
    let b := s.readReg rs2
    decodeWord (0b0000001#7 ++ rs2 ++ rs1 ++ 0b000#3 ++ rd ++ 0x33#7) = .ok (.mul rd rs1 rs2) ∧
    ∃ t v, exec (.mul rd rs1 rs2) s = .next t ∧ s.RegisterResult t rd v (s.pc + 4) ∧
      (v.toNat : Int) = a.toInt * b.toInt % 4294967296 ∧ v.toNat = a.toNat * b.toNat % 4294967296

/-- MULH, MULHSU and MULHU (46_muldiv.md section 1; which operand is signed is D21 and general knowledge,
K15, K16): the high half of the exact product, as a signed value, or unsigned for MULHU. -/
def Obligations.MultiplyHigh : Prop :=
  ∀ (rd rs1 rs2 : RegIdx) (s : State),
    let a := s.readReg rs1
    let b := s.readReg rs2
    decodeWord (0b0000001#7 ++ rs2 ++ rs1 ++ 0b001#3 ++ rd ++ 0x33#7) = .ok (.mulh rd rs1 rs2) ∧
    decodeWord (0b0000001#7 ++ rs2 ++ rs1 ++ 0b010#3 ++ rd ++ 0x33#7) = .ok (.mulhsu rd rs1 rs2) ∧
    decodeWord (0b0000001#7 ++ rs2 ++ rs1 ++ 0b011#3 ++ rd ++ 0x33#7) = .ok (.mulhu rd rs1 rs2) ∧
    (∃ t v, exec (.mulh rd rs1 rs2) s = .next t ∧ s.RegisterResult t rd v (s.pc + 4) ∧
      v.toInt = a.toInt * b.toInt / 4294967296) ∧
    (∃ t v, exec (.mulhsu rd rs1 rs2) s = .next t ∧ s.RegisterResult t rd v (s.pc + 4) ∧
      v.toInt = a.toInt * b.toNat / 4294967296) ∧
    (∃ t v, exec (.mulhu rd rs1 rs2) s = .next t ∧ s.RegisterResult t rd v (s.pc + 4) ∧
      v.toNat = a.toNat * b.toNat / 4294967296)

/-- DIVU and REMU (46_muldiv.md R195, R197). -/
def Obligations.UnsignedDivision : Prop :=
  ∀ (rd rs1 rs2 : RegIdx) (s : State),
    let a := s.readReg rs1
    let b := s.readReg rs2
    decodeWord (0b0000001#7 ++ rs2 ++ rs1 ++ 0b101#3 ++ rd ++ 0x33#7) = .ok (.divu rd rs1 rs2) ∧
    decodeWord (0b0000001#7 ++ rs2 ++ rs1 ++ 0b111#3 ++ rd ++ 0x33#7) = .ok (.remu rd rs1 rs2) ∧
    (∃ t v, exec (.divu rd rs1 rs2) s = .next t ∧ s.RegisterResult t rd v (s.pc + 4) ∧
      (b.toNat = 0 → v = 0xFFFFFFFF#32) ∧ (b.toNat ≠ 0 → v.toNat = a.toNat / b.toNat)) ∧
    (∃ t v, exec (.remu rd rs1 rs2) s = .next t ∧ s.RegisterResult t rd v (s.pc + 4) ∧
      (b.toNat = 0 → v = a) ∧ (b.toNat ≠ 0 → v.toNat = a.toNat % b.toNat))

/-- DIV and REM (46_muldiv.md section 2; rounding toward zero and the sign of the remainder are D20): all
ones and the dividend by zero, the dividend and 0 on overflow, else the truncated quotient and its
remainder as signed values. -/
def Obligations.SignedDivision : Prop :=
  ∀ (rd rs1 rs2 : RegIdx) (s : State),
    let a := s.readReg rs1
    let b := s.readReg rs2
    decodeWord (0b0000001#7 ++ rs2 ++ rs1 ++ 0b100#3 ++ rd ++ 0x33#7) = .ok (.div rd rs1 rs2) ∧
    decodeWord (0b0000001#7 ++ rs2 ++ rs1 ++ 0b110#3 ++ rd ++ 0x33#7) = .ok (.rem rd rs1 rs2) ∧
    ∃ t u q r, exec (.div rd rs1 rs2) s = .next t ∧ s.RegisterResult t rd q (s.pc + 4) ∧
      exec (.rem rd rs1 rs2) s = .next u ∧ s.RegisterResult u rd r (s.pc + 4) ∧
      (b.toInt = 0 → q = 0xFFFFFFFF#32 ∧ r = a) ∧
      (a.toInt = -2147483648 ∧ b.toInt = -1 → q = 0x80000000#32 ∧ r = 0) ∧
      (b.toInt ≠ 0 ∧ ¬ (a.toInt = -2147483648 ∧ b.toInt = -1) →
        q.toInt = Int.tdiv a.toInt b.toInt ∧ r.toInt = Int.tmod a.toInt b.toInt)

/-- The division law of REM's rule (46_muldiv.md section 2; D20): the dividend is quotient times divisor plus
remainder, modulo 2^32, for every nonzero divisor, and the remainder is smaller than the divisor and
is 0 or has the dividend's sign. -/
def Obligations.DivisionLaw : Prop :=
  ∀ a b : Word, b ≠ 0 →
    a = divSigned a b * b + remSigned a b ∧ (remSigned a b).toInt.natAbs < b.toInt.natAbs ∧
      (remSigned a b = 0 ∨ (remSigned a b).toInt.sign = a.toInt.sign)

/-! ## System instructions -/

/-- ECALL (47_system.md R210): x10 becomes all ones and execution continues; nothing else changes. -/
def Obligations.EcallWritesMinusOne : Prop :=
  decodeWord 0x00000073#32 = .ok .ecall ∧
  ∀ s : State, ∃ t, exec .ecall s = .next t ∧ s.RegisterResult t 10 0xFFFFFFFF (s.pc + 4)

/-- EBREAK (47_system.md R211): pc + 4 is committed and the core halts with HALT_EBREAK and the address of the
EBREAK; no register, RAM byte or output changes. -/
def Obligations.EbreakHalts : Prop :=
  decodeWord 0x00100073#32 = .ok .ebreak ∧
  ∀ s : State, ∃ t, exec .ebreak s = .next t ∧ t.pc = s.pc + 4 ∧ t.halted = true ∧
    t.stop.cause = .haltEbreak ∧ t.stop.pc = s.pc ∧
    s.SameRegs t ∧ s.SameRam t ∧ t.output = s.output ∧ t.currentInstruction = s.currentInstruction
end

