-- ==== Sys2Proof/Laws/State.lean ====
section
/-! SUPPORT. One lemma per field per update of the state, and the views that an update leaves alone, so that
no later proof unfolds a record update. -/

namespace Sys2Proof.Machine

/-! ## commitPc -/

@[simp] theorem commitPc_pc (s : State) (n : Word) : (s.commitPc n).pc = n := rfl
@[simp] theorem commitPc_regs (s : State) (n : Word) : (s.commitPc n).regs = s.regs := rfl
@[simp] theorem commitPc_halted (s : State) (n : Word) : (s.commitPc n).halted = s.halted := rfl
@[simp] theorem commitPc_currentInstruction (s : State) (n : Word) : (s.commitPc n).currentInstruction = s.currentInstruction :=
  rfl
@[simp] theorem commitPc_stop (s : State) (n : Word) : (s.commitPc n).stop = s.stop := rfl
@[simp] theorem commitPc_ramWords (s : State) (n : Word) : (s.commitPc n).ramWords = s.ramWords := rfl
@[simp] theorem commitPc_ram (s : State) (n : Word) : (s.commitPc n).ram = s.ram := rfl
@[simp] theorem commitPc_output (s : State) (n : Word) : (s.commitPc n).output = s.output := rfl

/-! ## takeStop -/

@[simp] theorem takeStop_pc (s : State) (st : StopStatus) : (s.takeStop st).pc = s.pc := rfl
@[simp] theorem takeStop_regs (s : State) (st : StopStatus) : (s.takeStop st).regs = s.regs := rfl
@[simp] theorem takeStop_halted (s : State) (st : StopStatus) : (s.takeStop st).halted = true := rfl
@[simp] theorem takeStop_currentInstruction (s : State) (st : StopStatus) : (s.takeStop st).currentInstruction = s.currentInstruction :=
  rfl
@[simp] theorem takeStop_stop (s : State) (st : StopStatus) : (s.takeStop st).stop = st := rfl
@[simp] theorem takeStop_ramWords (s : State) (st : StopStatus) : (s.takeStop st).ramWords = s.ramWords :=
  rfl
@[simp] theorem takeStop_ram (s : State) (st : StopStatus) : (s.takeStop st).ram = s.ram := rfl
@[simp] theorem takeStop_output (s : State) (st : StopStatus) : (s.takeStop st).output = s.output := rfl

/-! ## emit -/

@[simp] theorem emit_pc (s : State) (c : Channel) (n : Width) (v : Word) : (s.emit c n v).pc = s.pc := rfl
@[simp] theorem emit_regs (s : State) (c : Channel) (n : Width) (v : Word) : (s.emit c n v).regs = s.regs :=
  rfl
@[simp] theorem emit_halted (s : State) (c : Channel) (n : Width) (v : Word) : (s.emit c n v).halted = s.halted :=
  rfl
@[simp] theorem emit_currentInstruction (s : State) (c : Channel) (n : Width) (v : Word) : (s.emit c n v).currentInstruction = s.currentInstruction :=
  rfl
@[simp] theorem emit_stop (s : State) (c : Channel) (n : Width) (v : Word) : (s.emit c n v).stop = s.stop :=
  rfl
@[simp] theorem emit_ramWords (s : State) (c : Channel) (n : Width) (v : Word) : (s.emit c n v).ramWords = s.ramWords :=
  rfl
@[simp] theorem emit_ram (s : State) (c : Channel) (n : Width) (v : Word) : (s.emit c n v).ram = s.ram :=
  rfl
@[simp] theorem emit_output (s : State) (c : Channel) (n : Width) (v : Word) : (s.emit c n v).output = s.output ++ [{ channel := c, width := n, value := v }] :=
  rfl

/-! ## recordFetch -/

@[simp] theorem recordFetch_pc (s : State) (w : Word) : (s.recordFetch w).pc = s.pc := rfl
@[simp] theorem recordFetch_regs (s : State) (w : Word) : (s.recordFetch w).regs = s.regs := rfl
@[simp] theorem recordFetch_halted (s : State) (w : Word) : (s.recordFetch w).halted = s.halted := rfl
@[simp] theorem recordFetch_currentInstruction (s : State) (w : Word) : (s.recordFetch w).currentInstruction = w :=
  rfl
@[simp] theorem recordFetch_stop (s : State) (w : Word) : (s.recordFetch w).stop = s.stop := rfl
@[simp] theorem recordFetch_ramWords (s : State) (w : Word) : (s.recordFetch w).ramWords = s.ramWords := rfl
@[simp] theorem recordFetch_ram (s : State) (w : Word) : (s.recordFetch w).ram = s.ram := rfl
@[simp] theorem recordFetch_output (s : State) (w : Word) : (s.recordFetch w).output = s.output := rfl

/-! ## storeRam -/

@[simp] theorem storeRam_pc (s : State) (a : Nat) (v : Word) (n : Width) : (s.storeRam a v n).pc = s.pc := rfl
@[simp] theorem storeRam_regs (s : State) (a : Nat) (v : Word) (n : Width) : (s.storeRam a v n).regs = s.regs := rfl
@[simp] theorem storeRam_halted (s : State) (a : Nat) (v : Word) (n : Width) : (s.storeRam a v n).halted = s.halted := rfl
@[simp] theorem storeRam_currentInstruction (s : State) (a : Nat) (v : Word) (n : Width) : (s.storeRam a v n).currentInstruction = s.currentInstruction :=
  rfl
@[simp] theorem storeRam_stop (s : State) (a : Nat) (v : Word) (n : Width) : (s.storeRam a v n).stop = s.stop := rfl
@[simp] theorem storeRam_ramWords (s : State) (a : Nat) (v : Word) (n : Width) : (s.storeRam a v n).ramWords = s.ramWords :=
  rfl
@[simp] theorem storeRam_ram (s : State) (a : Nat) (v : Word) (n : Width) : (s.storeRam a v n).ram = s.ram.store a v n :=
  rfl
@[simp] theorem storeRam_output (s : State) (a : Nat) (v : Word) (n : Width) : (s.storeRam a v n).output = s.output := rfl

/-! ## writeReg -/

@[simp] theorem writeReg_pc (s : State) (i : RegIdx) (v : Word) : (s.writeReg i v).pc = s.pc := by
  unfold State.writeReg; split <;> rfl
@[simp] theorem writeReg_halted (s : State) (i : RegIdx) (v : Word) : (s.writeReg i v).halted = s.halted := by
  unfold State.writeReg; split <;> rfl
@[simp] theorem writeReg_currentInstruction (s : State) (i : RegIdx) (v : Word) : (s.writeReg i v).currentInstruction = s.currentInstruction := by
  unfold State.writeReg; split <;> rfl
@[simp] theorem writeReg_stop (s : State) (i : RegIdx) (v : Word) : (s.writeReg i v).stop = s.stop := by
  unfold State.writeReg; split <;> rfl
@[simp] theorem writeReg_ramWords (s : State) (i : RegIdx) (v : Word) : (s.writeReg i v).ramWords = s.ramWords := by
  unfold State.writeReg; split <;> rfl
@[simp] theorem writeReg_ram (s : State) (i : RegIdx) (v : Word) : (s.writeReg i v).ram = s.ram := by
  unfold State.writeReg; split <;> rfl
@[simp] theorem writeReg_output (s : State) (i : RegIdx) (v : Word) : (s.writeReg i v).output = s.output := by
  unfold State.writeReg; split <;> rfl

/-! ## commit -/

@[simp] theorem commit_pc (s : State) (i : RegIdx) (v n : Word) : (s.commit i v n).pc = n :=
  rfl
@[simp] theorem commit_regs (s : State) (i : RegIdx) (v n : Word) : (s.commit i v n).regs = (s.writeReg i v).regs :=
  rfl
@[simp] theorem commit_halted (s : State) (i : RegIdx) (v n : Word) : (s.commit i v n).halted = s.halted :=
  writeReg_halted s i v
@[simp] theorem commit_currentInstruction (s : State) (i : RegIdx) (v n : Word) : (s.commit i v n).currentInstruction = s.currentInstruction :=
  writeReg_currentInstruction s i v
@[simp] theorem commit_stop (s : State) (i : RegIdx) (v n : Word) : (s.commit i v n).stop = s.stop :=
  writeReg_stop s i v
@[simp] theorem commit_ramWords (s : State) (i : RegIdx) (v n : Word) : (s.commit i v n).ramWords = s.ramWords :=
  writeReg_ramWords s i v
@[simp] theorem commit_ram (s : State) (i : RegIdx) (v n : Word) : (s.commit i v n).ram = s.ram :=
  writeReg_ram s i v
@[simp] theorem commit_output (s : State) (i : RegIdx) (v n : Word) : (s.commit i v n).output = s.output :=
  writeReg_output s i v

/-! ## Views that depend on some fields only -/

theorem readReg_congr {s t : State} (h : t.regs = s.regs) (r : RegIdx) : t.readReg r = s.readReg r := by
  simp only [State.readReg, h]

theorem ramByte_congr {s t : State} (h : t.ram = s.ram) (a : Nat) : t.ramByte a = s.ramByte a := by
  simp only [State.ramByte, h]

theorem ramSize_congr {s t : State} (h : t.ramWords = s.ramWords) : t.ramSize = s.ramSize := by
  simp only [State.ramSize, h]

theorem inRam_congr {s t : State} (h : t.ramWords = s.ramWords) (a : Word) : t.inRam a = s.inRam a := by
  simp only [State.inRam, ramSize_congr h]

theorem busRead_congr {s t : State} (h : t.ramWords = s.ramWords) (h' : t.ram = s.ram) (a : Word) (n : Width) :
    t.busRead a n = s.busRead a n := by
  have e : t.readRam a.toNat n = s.readRam a.toNat n := by
    cases n <;> simp only [State.readRam, ramByte_congr h']
  simp only [State.busRead, inRam_congr h, e]

theorem fetch_congr {s t : State} (h : t.ramWords = s.ramWords) (h' : t.ram = s.ram) (hp : t.pc = s.pc) :
    t.fetch = s.fetch := by
  simp only [State.fetch, hp, busRead_congr h h']

/-! ## readReg, ramByte, ramSize after each update -/

@[simp] theorem commitPc_readReg (s : State) (n : Word) (r : RegIdx) :
    (s.commitPc n).readReg r = s.readReg r := readReg_congr rfl r

@[simp] theorem commitPc_ramByte (s : State) (n : Word) (a : Nat) :
    (s.commitPc n).ramByte a = s.ramByte a := ramByte_congr rfl a

@[simp] theorem commitPc_ramSize (s : State) (n : Word) : (s.commitPc n).ramSize = s.ramSize := rfl

@[simp] theorem commitPc_busRead (s : State) (n : Word) (a : Word) (k : Width) :
    (s.commitPc n).busRead a k = s.busRead a k := busRead_congr rfl rfl a k

@[simp] theorem takeStop_readReg (s : State) (st : StopStatus) (r : RegIdx) :
    (s.takeStop st).readReg r = s.readReg r := readReg_congr rfl r

@[simp] theorem takeStop_ramByte (s : State) (st : StopStatus) (a : Nat) :
    (s.takeStop st).ramByte a = s.ramByte a := ramByte_congr rfl a

@[simp] theorem takeStop_ramSize (s : State) (st : StopStatus) : (s.takeStop st).ramSize = s.ramSize := rfl

@[simp] theorem takeStop_busRead (s : State) (st : StopStatus) (a : Word) (k : Width) :
    (s.takeStop st).busRead a k = s.busRead a k := busRead_congr rfl rfl a k

@[simp] theorem emit_readReg (s : State) (c : Channel) (n : Width) (v : Word) (r : RegIdx) :
    (s.emit c n v).readReg r = s.readReg r := readReg_congr rfl r

@[simp] theorem emit_ramByte (s : State) (c : Channel) (n : Width) (v : Word) (a : Nat) :
    (s.emit c n v).ramByte a = s.ramByte a := ramByte_congr rfl a

@[simp] theorem emit_ramSize (s : State) (c : Channel) (n : Width) (v : Word) : (s.emit c n v).ramSize = s.ramSize := rfl

@[simp] theorem emit_busRead (s : State) (c : Channel) (n : Width) (v : Word) (a : Word) (k : Width) :
    (s.emit c n v).busRead a k = s.busRead a k := busRead_congr rfl rfl a k

@[simp] theorem recordFetch_readReg (s : State) (w : Word) (r : RegIdx) :
    (s.recordFetch w).readReg r = s.readReg r := readReg_congr rfl r

@[simp] theorem recordFetch_ramByte (s : State) (w : Word) (a : Nat) :
    (s.recordFetch w).ramByte a = s.ramByte a := ramByte_congr rfl a

@[simp] theorem recordFetch_ramSize (s : State) (w : Word) : (s.recordFetch w).ramSize = s.ramSize := rfl

@[simp] theorem recordFetch_busRead (s : State) (w : Word) (a : Word) (k : Width) :
    (s.recordFetch w).busRead a k = s.busRead a k := busRead_congr rfl rfl a k

@[simp] theorem storeRam_readReg (s : State) (a : Nat) (v : Word) (n : Width) (r : RegIdx) :
    (s.storeRam a v n).readReg r = s.readReg r := readReg_congr rfl r

@[simp] theorem storeRam_ramSize (s : State) (a : Nat) (v : Word) (n : Width) : (s.storeRam a v n).ramSize = s.ramSize := rfl

@[simp] theorem writeReg_ramByte (s : State) (i : RegIdx) (v : Word) (a : Nat) :
    (s.writeReg i v).ramByte a = s.ramByte a := ramByte_congr (writeReg_ram s i v) a

@[simp] theorem writeReg_ramSize (s : State) (i : RegIdx) (v : Word) :
    (s.writeReg i v).ramSize = s.ramSize := ramSize_congr (writeReg_ramWords s i v)

@[simp] theorem commit_readReg (s : State) (i : RegIdx) (v n : Word) (r : RegIdx) :
    (s.commit i v n).readReg r = (s.writeReg i v).readReg r := readReg_congr rfl r

@[simp] theorem commit_ramByte (s : State) (i : RegIdx) (v n : Word) (a : Nat) :
    (s.commit i v n).ramByte a = s.ramByte a := ramByte_congr (commit_ram s i v n) a

@[simp] theorem commit_ramSize (s : State) (i : RegIdx) (v n : Word) :
    (s.commit i v n).ramSize = s.ramSize := ramSize_congr (commit_ramWords s i v n)

/-! ## Construction and reset -/

/-- The reset state is the construction over a bus with no image, at the values of log entries 1 to 3. -/
theorem reset_eq_construct :
    State.reset = construct Config.resetRamWords [] (Vector.replicate 31 Config.resetRegister)
      Config.resetInstruction := rfl

end Sys2Proof.Machine
end

