-- ==== Sys2Proof/Laws/Memory.lean ====
section
/-! SUPPORT. RAM bytes: read after write, the canonical form, and where the listed addresses are. -/

namespace Sys2Proof.Machine

/-- All an insertion can do to a lookup. -/
theorem lookup_insert (m : Memory) (a : Nat) (v : Byte) (b : Nat) :
    (m.insert a v).lookup b = if b = a then some v else m.lookup b := by
  induction m with
  | nil => simp [Memory.insert, Memory.lookup]
  | cons c m ih =>
    obtain ⟨k, x⟩ := c
    unfold Memory.insert
    split
    · simp [Memory.lookup]
    · split
      · next h => subst h; simp only [Memory.lookup]; split <;> rfl
      · next h =>
        simp only [Memory.lookup, ih]
        by_cases hb : b = k
        · subst hb; simp [Ne.symm h]
        · simp [hb]

/-- The addresses listed after an insertion. -/
theorem mem_insert {m : Memory} {a : Nat} {v : Byte} {c : Host.Cell} (h : c ∈ m.insert a v) :
    c = (a, v) ∨ c ∈ m := by
  induction m with
  | nil => simpa [Memory.insert] using h
  | cons d m ih =>
    obtain ⟨k, x⟩ := d
    unfold Memory.insert at h
    split at h
    · simpa using h
    · split at h
      · rcases List.mem_cons.1 h with h | h
        · exact .inl h
        · exact .inr (List.mem_cons_of_mem _ h)
      · rcases List.mem_cons.1 h with h | h
        · exact .inr (h ▸ List.mem_cons_self)
        · rcases ih h with h | h
          · exact .inl h
          · exact .inr (List.mem_cons_of_mem _ h)

/-- An insertion keeps the canonical form. -/
theorem wf_insert {m : Memory} (h : m.wf) (a : Nat) (v : Byte) : (m.insert a v).wf := by
  induction m with
  | nil => simp [Memory.insert, Memory.wf]
  | cons c m ih =>
    obtain ⟨k, x⟩ := c
    obtain ⟨h1, h2⟩ := List.pairwise_cons.1 h
    unfold Memory.insert
    split
    · next hlt =>
      refine List.pairwise_cons.2 ⟨?_, h⟩
      intro d hd
      rcases List.mem_cons.1 hd with rfl | hd
      · exact hlt
      · exact Nat.lt_trans hlt (h1 d hd)
    · split
      · next he => subst he; exact List.pairwise_cons.2 ⟨h1, h2⟩
      · next hlt hne =>
        refine List.pairwise_cons.2 ⟨?_, ih h2⟩
        intro d hd
        rcases mem_insert hd with rfl | hd
        · show k < a
          omega
        · exact h1 d hd

/-- All a store can do to a lookup: the stored bytes, and every other byte as before. -/
theorem lookup_store (m : Memory) (a : Nat) (v : Word) (n : Width) (b : Nat) :
    (m.store a v n).lookup b =
      if a ≤ b ∧ b < a + n.bytes then some (byteOfWord v (b - a)) else m.lookup b := by
  cases n <;> simp only [Memory.store, lookup_insert]
  · by_cases h : b = a
    · subst h; simp [Width.bytes]
    · rw [if_neg h, if_neg (by simp only [Width.bytes]; omega)]
  · by_cases h1 : b = a + 1
    · subst h1; simp [Width.bytes]
    · by_cases h : b = a
      · subst h; simp [Width.bytes]
      · rw [if_neg h1, if_neg h, if_neg (by simp only [Width.bytes]; omega)]
  · by_cases h3 : b = a + 3
    · subst h3; simp [Width.bytes]
    · by_cases h2 : b = a + 2
      · subst h2; simp [Width.bytes]
      · by_cases h1 : b = a + 1
        · subst h1; simp [Width.bytes]
        · by_cases h : b = a
          · subst h; simp [Width.bytes]
          · rw [if_neg h3, if_neg h2, if_neg h1, if_neg h, if_neg (by simp only [Width.bytes]; omega)]

/-- A store keeps the canonical form. -/
theorem wf_store {m : Memory} (h : m.wf) (a : Nat) (v : Word) (n : Width) : (m.store a v n).wf := by
  cases n <;> simp only [Memory.store] <;> repeat' first | exact h | apply wf_insert

/-- The addresses listed after a store are the stored ones and the earlier ones. -/
theorem mem_store {m : Memory} {a : Nat} {v : Word} {n : Width} {c : Host.Cell} (h : c ∈ m.store a v n) :
    (a ≤ c.1 ∧ c.1 < a + n.bytes) ∨ c ∈ m := by
  cases n <;> simp only [Memory.store] at h <;> simp only [Width.bytes]
  · rcases mem_insert h with rfl | h
    · exact .inl ⟨Nat.le_refl _, Nat.lt_succ_self _⟩
    · exact .inr h
  · rcases mem_insert h with rfl | h
    · exact .inl (by constructor <;> dsimp only <;> omega)
    rcases mem_insert h with rfl | h
    · exact .inl (by constructor <;> dsimp only <;> omega)
    exact .inr h
  · rcases mem_insert h with rfl | h
    · exact .inl (by constructor <;> dsimp only <;> omega)
    rcases mem_insert h with rfl | h
    · exact .inl (by constructor <;> dsimp only <;> omega)
    rcases mem_insert h with rfl | h
    · exact .inl (by constructor <;> dsimp only <;> omega)
    rcases mem_insert h with rfl | h
    · exact .inl (by constructor <;> dsimp only <;> omega)
    exact .inr h

/-- A byte of RAM after the RAM has been replaced by a store into it. -/
theorem ramByte_of_store {s t : State} {a : Nat} {v : Word} {n : Width} (h : t.ram = s.ram.store a v n)
    (b : Nat) :
    t.ramByte b = if a ≤ b ∧ b < a + n.bytes then byteOfWord v (b - a) else s.ramByte b := by
  simp only [State.ramByte, h, lookup_store]
  split <;> rfl

/-- An image load keeps the canonical form. -/
theorem wf_writeBytes {m : Memory} (h : m.wf) (a : Nat) (bs : List Byte) : (m.writeBytes a bs).wf := by
  induction bs generalizing m a with
  | nil => exact h
  | cons b bs ih => exact ih (wf_insert h a b) (a + 1)

/-- The addresses listed after an image load. -/
theorem mem_writeBytes {m : Memory} {a : Nat} {bs : List Byte} {c : Host.Cell} (h : c ∈ m.writeBytes a bs) :
    (a ≤ c.1 ∧ c.1 < a + bs.length) ∨ c ∈ m := by
  induction bs generalizing m a with
  | nil => exact .inr h
  | cons b bs ih =>
    rcases ih h with h | h
    · exact .inl (by simp only [List.length_cons]; omega)
    · rcases mem_insert h with rfl | h
      · exact .inl (by simp only [List.length_cons]; omega)
      · exact .inr h

/-- All an image load can do to a lookup: the image bytes from its start, and every other byte as before. -/
theorem lookup_writeBytes (m : Memory) (a : Nat) (bs : List Byte) (b : Nat) :
    (m.writeBytes a bs).lookup b =
      if h : a ≤ b ∧ b < a + bs.length then some (bs[b - a]'(by omega)) else m.lookup b := by
  induction bs generalizing m a with
  | nil => simp only [Memory.writeBytes, List.length_nil]; rw [dif_neg (by omega)]
  | cons x bs ih =>
    simp only [Memory.writeBytes, ih, lookup_insert, List.length_cons]
    by_cases h0 : b = a
    · subst h0
      rw [dif_neg (by omega), if_pos rfl, dif_pos (by omega)]
      simp
    · rw [if_neg h0]
      by_cases h : a + 1 ≤ b ∧ b < a + 1 + bs.length
      · rw [dif_pos h, dif_pos (by omega)]
        have e : b - a = (b - (a + 1)) + 1 := by omega
        simp [e]
      · rw [dif_neg h, dif_neg (by omega)]

end Sys2Proof.Machine
end

