-- ==== Sys2Proof/Laws/Bus.lean ====
section
/-! SUPPORT. The bus: the four results of a read, the results of a write, and the round trip
(20_memory.md R43, R46, R49, R50). -/

namespace Sys2Proof.Machine

theorem inDeviceWindow_iff (a : Word) :
    inDeviceWindow a = true ↔ 0x10000000 ≤ a.toNat ∧ a.toNat < 0x1000000C := by
  exact decide_eq_true_iff

theorem inRam_iff (s : State) (a : Word) :
    s.inRam a = true ↔ 0x80000000 ≤ a.toNat ∧ a.toNat < 0x80000000 + s.ramSize := by
  exact decide_eq_true_iff

/-- An aligned address is a multiple of the access width. -/
theorem isMisaligned_eq_false_iff (a : Word) (n : Width) :
    isMisaligned a n = false ↔ a.toNat % n.bytes = 0 := by
  cases n <;> simp [isMisaligned, Width.bytes]; omega

theorem isMisaligned_eq_true_iff (a : Word) (n : Width) :
    isMisaligned a n = true ↔ a.toNat % n.bytes ≠ 0 := by
  rw [← Bool.not_eq_false, isMisaligned_eq_false_iff]

/-- RAM and the device window do not meet. -/
theorem not_window_of_inRam {s : State} {a : Word} (h : s.inRam a = true) : inDeviceWindow a = false := by
  rw [inRam_iff] at h
  rw [← Bool.not_eq_true, inDeviceWindow_iff]
  omega

/-- A device word is in the device window. -/
theorem window_of_deviceChannel {a : Word} {c : Channel} (h : deviceChannel a = some c) :
    inDeviceWindow a = true := by
  rw [inDeviceWindow_iff]
  simp only [deviceChannel, Config.devChar, Config.devDec, Config.devHex] at h
  split at h
  · omega
  split at h
  · omega
  split at h
  · omega
  · simp at h

theorem deviceChannel_of_inRam {s : State} {a : Word} (h : s.inRam a = true) : deviceChannel a = none := by
  cases hc : deviceChannel a with
  | none => rfl
  | some c => exact absurd (window_of_deviceChannel hc) (by rw [not_window_of_inRam h]; simp)

/-! ## Read -/

theorem busRead_window (s : State) {a : Word} (n : Width) (h : inDeviceWindow a = true) :
    s.busRead a n = .ok 0 := by
  simp only [State.busRead, h, if_true]

theorem busRead_unmapped (s : State) {a : Word} (n : Width) (h : inDeviceWindow a = false)
    (h' : s.inRam a = false) : s.busRead a n = .fatal := by
  simp [State.busRead, h, h']

theorem busRead_misaligned (s : State) {a : Word} {n : Width} (h : s.inRam a = true)
    (h' : a.toNat % n.bytes ≠ 0) : s.busRead a n = .misaligned := by
  rw [← isMisaligned_eq_true_iff] at h'
  simp [State.busRead, not_window_of_inRam h, h, h']

theorem busRead_ram (s : State) {a : Word} {n : Width} (h : s.inRam a = true)
    (h' : a.toNat % n.bytes = 0) : s.busRead a n = .ok (s.readRam a.toNat n) := by
  rw [← isMisaligned_eq_false_iff] at h'
  simp [State.busRead, not_window_of_inRam h, h, h']

/-- All a read can do. -/
theorem busRead_cases (s : State) (a : Word) (n : Width) :
    (inDeviceWindow a = true ∧ s.busRead a n = .ok 0) ∨
    (inDeviceWindow a = false ∧ s.inRam a = false ∧ s.busRead a n = .fatal) ∨
    (s.inRam a = true ∧ a.toNat % n.bytes ≠ 0 ∧ s.busRead a n = .misaligned) ∨
    (s.inRam a = true ∧ a.toNat % n.bytes = 0 ∧ s.busRead a n = .ok (s.readRam a.toNat n)) := by
  cases hw : inDeviceWindow a with
  | true => exact .inl ⟨rfl, busRead_window s n hw⟩
  | false =>
    cases hr : s.inRam a with
    | false => exact .inr (.inl ⟨rfl, rfl, busRead_unmapped s n hw hr⟩)
    | true =>
      by_cases hm : a.toNat % n.bytes = 0
      · exact .inr (.inr (.inr ⟨rfl, hm, busRead_ram s hr hm⟩))
      · exact .inr (.inr (.inl ⟨rfl, hm, busRead_misaligned s hr hm⟩))

/-! ## Write -/

theorem busWrite_device (s : State) {a : Word} {c : Channel} (n : Width) (v : Word)
    (h : deviceChannel a = some c) : s.busWrite a n v = some (s.emit c n v) := by
  simp only [State.busWrite, h]

theorem busWrite_ram (s : State) {a : Word} {n : Width} (v : Word) (h : s.inRam a = true)
    (h' : a.toNat % n.bytes = 0) : s.busWrite a n v = some (s.storeRam a.toNat v n) := by
  rw [← isMisaligned_eq_false_iff] at h'
  simp [State.busWrite, deviceChannel_of_inRam h, not_window_of_inRam h, h, h']

theorem busWrite_fatal (s : State) {a : Word} {n : Width} (v : Word) (h : deviceChannel a = none)
    (h' : s.inRam a = false ∨ a.toNat % n.bytes ≠ 0) : s.busWrite a n v = none := by
  rw [← isMisaligned_eq_true_iff] at h'
  unfold State.busWrite
  rw [h]
  dsimp only
  split
  · rfl
  · rcases h' with h' | h' <;> simp [h']

/-- All a write can do: an output event at a device word, a store into RAM at an aligned address, or
nothing. -/
theorem busWrite_cases (s : State) (a : Word) (n : Width) (v : Word) :
    (∃ c, deviceChannel a = some c ∧ s.busWrite a n v = some (s.emit c n v)) ∨
    (s.inRam a = true ∧ a.toNat % n.bytes = 0 ∧ s.busWrite a n v = some (s.storeRam a.toNat v n)) ∨
    (deviceChannel a = none ∧ (s.inRam a = false ∨ a.toNat % n.bytes ≠ 0) ∧
      ∀ v' : Word, s.busWrite a n v' = none) := by
  cases hc : deviceChannel a with
  | some c => exact .inl ⟨c, rfl, busWrite_device s n v hc⟩
  | none =>
    cases hr : s.inRam a with
    | false => exact .inr (.inr ⟨rfl, .inl rfl, fun v' => busWrite_fatal s v' hc (.inl hr)⟩)
    | true =>
      by_cases hm : a.toNat % n.bytes = 0
      · exact .inr (.inl ⟨rfl, hm, busWrite_ram s v hr hm⟩)
      · exact .inr (.inr ⟨rfl, .inr hm, fun v' => busWrite_fatal s v' hc (.inr hm)⟩)

/-- A byte of RAM after a store. -/
theorem ramByte_storeRam (s : State) (a : Nat) (v : Word) (n : Width) (b : Nat) :
    (s.storeRam a v n).ramByte b = if a ≤ b ∧ b < a + n.bytes then byteOfWord v (b - a) else s.ramByte b :=
  ramByte_of_store rfl b

/-- A word is the concatenation of its bytes. -/
theorem wordOfBytes_byteOfWord (v : Word) :
    wordOfBytes (byteOfWord v 0) (byteOfWord v 1) (byteOfWord v 2) (byteOfWord v 3) = v := by
  apply BitVec.eq_of_toNat_eq
  simp only [wordOfBytes, byteOfWord, BitVec.toNat_append, BitVec.extractLsb'_toNat, Nat.shiftLeft_eq,
    Nat.shiftRight_eq_div_pow]
  have := v.isLt
  simp only [← Nat.shiftLeft_eq]
  rw [← Nat.shiftLeft_add_eq_or_of_lt (by omega), ← Nat.shiftLeft_add_eq_or_of_lt (by omega),
    ← Nat.shiftLeft_add_eq_or_of_lt (by omega)]
  simp only [Nat.shiftLeft_eq]
  omega

/-- The low byte of a word. -/
theorem byteOfWord_zero (v : Word) : byteOfWord v 0 = v.setWidth 8 := by
  apply BitVec.eq_of_toNat_eq
  simp [byteOfWord]

/-- The low half-word of a word is its two low bytes. -/
theorem byteOfWord_append (v : Word) : byteOfWord v 1 ++ byteOfWord v 0 = v.setWidth 16 := by
  apply BitVec.eq_of_toNat_eq
  have := v.isLt
  simp only [byteOfWord, BitVec.toNat_append, BitVec.extractLsb'_toNat, Nat.shiftRight_eq_div_pow,
    BitVec.toNat_setWidth]
  rw [← Nat.shiftLeft_add_eq_or_of_lt (by omega)]
  simp only [Nat.shiftLeft_eq]
  omega

/-- What a store leaves in RAM reads back truncated to the width of the access (20_memory.md R50). -/
theorem readRam_storeRam (s : State) (a : Nat) (v : Word) (n : Width) :
    (s.storeRam a v n).readRam a n = truncateTo v n := by
  have e (k : Nat) (h : k < n.bytes) : (s.storeRam a v n).ramByte (a + k) = byteOfWord v k := by
    rw [ramByte_storeRam, if_pos (by omega), Nat.add_sub_cancel_left]
  cases n
  · rw [State.readRam, truncateTo, ← byteOfWord_zero, ← e 0 (by decide)]; rfl
  · rw [State.readRam, truncateTo, ← byteOfWord_append, ← e 0 (by decide), ← e 1 (by decide)]; rfl
  · refine Eq.trans ?_ (wordOfBytes_byteOfWord v)
    rw [← e 0 (by decide), ← e 1 (by decide), ← e 2 (by decide), ← e 3 (by decide)]; rfl

end Sys2Proof.Machine
end

