-- ==== Sys2Proof/Laws/Fields.lean ====
section
/-! SUPPORT. The fields of an encoded word, format by format, and a word rebuilt from its fields
(30_encoding.md R71 to R78). -/

namespace Sys2Proof

/-! ## R format -/

@[simp] theorem fieldOpcode_encodeR (funct7 : BitVec 7) (rs2 rs1 : RegIdx) (funct3 : BitVec 3) (rd : RegIdx) (opcode : BitVec 7) :
    fieldOpcode (encodeR funct7 rs2 rs1 funct3 rd opcode) = opcode := by
  unfold fieldOpcode encodeR
  exact BitVec.extractLsb'_append_eq_right

@[simp] theorem fieldRd_encodeR (funct7 : BitVec 7) (rs2 rs1 : RegIdx) (funct3 : BitVec 3) (rd : RegIdx) (opcode : BitVec 7) :
    fieldRd (encodeR funct7 rs2 rs1 funct3 rd opcode) = rd := by
  unfold fieldRd encodeR
  rw [BitVec.extractLsb'_append_eq_of_le (by decide)]
  exact BitVec.extractLsb'_append_eq_right

@[simp] theorem fieldFunct3_encodeR (funct7 : BitVec 7) (rs2 rs1 : RegIdx) (funct3 : BitVec 3) (rd : RegIdx) (opcode : BitVec 7) :
    fieldFunct3 (encodeR funct7 rs2 rs1 funct3 rd opcode) = funct3 := by
  unfold fieldFunct3 encodeR
  rw [BitVec.extractLsb'_append_eq_of_le (by decide)]
  rw [BitVec.extractLsb'_append_eq_of_le (by decide)]
  exact BitVec.extractLsb'_append_eq_right

@[simp] theorem fieldRs1_encodeR (funct7 : BitVec 7) (rs2 rs1 : RegIdx) (funct3 : BitVec 3) (rd : RegIdx) (opcode : BitVec 7) :
    fieldRs1 (encodeR funct7 rs2 rs1 funct3 rd opcode) = rs1 := by
  unfold fieldRs1 encodeR
  rw [BitVec.extractLsb'_append_eq_of_le (by decide)]
  rw [BitVec.extractLsb'_append_eq_of_le (by decide)]
  rw [BitVec.extractLsb'_append_eq_of_le (by decide)]
  exact BitVec.extractLsb'_append_eq_right

@[simp] theorem fieldRs2_encodeR (funct7 : BitVec 7) (rs2 rs1 : RegIdx) (funct3 : BitVec 3) (rd : RegIdx) (opcode : BitVec 7) :
    fieldRs2 (encodeR funct7 rs2 rs1 funct3 rd opcode) = rs2 := by
  unfold fieldRs2 encodeR
  rw [BitVec.extractLsb'_append_eq_of_le (by decide)]
  rw [BitVec.extractLsb'_append_eq_of_le (by decide)]
  rw [BitVec.extractLsb'_append_eq_of_le (by decide)]
  rw [BitVec.extractLsb'_append_eq_of_le (by decide)]
  exact BitVec.extractLsb'_append_eq_right

@[simp] theorem fieldShamt_encodeR (funct7 : BitVec 7) (rs2 rs1 : RegIdx) (funct3 : BitVec 3) (rd : RegIdx) (opcode : BitVec 7) :
    fieldShamt (encodeR funct7 rs2 rs1 funct3 rd opcode) = rs2 := by
  unfold fieldShamt encodeR
  rw [BitVec.extractLsb'_append_eq_of_le (by decide)]
  rw [BitVec.extractLsb'_append_eq_of_le (by decide)]
  rw [BitVec.extractLsb'_append_eq_of_le (by decide)]
  rw [BitVec.extractLsb'_append_eq_of_le (by decide)]
  exact BitVec.extractLsb'_append_eq_right

@[simp] theorem fieldFunct7_encodeR (funct7 : BitVec 7) (rs2 rs1 : RegIdx) (funct3 : BitVec 3) (rd : RegIdx) (opcode : BitVec 7) :
    fieldFunct7 (encodeR funct7 rs2 rs1 funct3 rd opcode) = funct7 := by
  unfold fieldFunct7 encodeR
  rw [BitVec.extractLsb'_append_eq_of_le (by decide)]
  rw [BitVec.extractLsb'_append_eq_of_le (by decide)]
  rw [BitVec.extractLsb'_append_eq_of_le (by decide)]
  rw [BitVec.extractLsb'_append_eq_of_le (by decide)]
  rw [BitVec.extractLsb'_append_eq_of_le (by decide)]
  exact BitVec.extractLsb'_eq_self

/-! ## I format -/

@[simp] theorem fieldOpcode_encodeI (imm : BitVec 12) (rs1 : RegIdx) (funct3 : BitVec 3) (rd : RegIdx) (opcode : BitVec 7) :
    fieldOpcode (encodeI imm rs1 funct3 rd opcode) = opcode := by
  unfold fieldOpcode encodeI
  exact BitVec.extractLsb'_append_eq_right

@[simp] theorem fieldRd_encodeI (imm : BitVec 12) (rs1 : RegIdx) (funct3 : BitVec 3) (rd : RegIdx) (opcode : BitVec 7) :
    fieldRd (encodeI imm rs1 funct3 rd opcode) = rd := by
  unfold fieldRd encodeI
  rw [BitVec.extractLsb'_append_eq_of_le (by decide)]
  exact BitVec.extractLsb'_append_eq_right

@[simp] theorem fieldFunct3_encodeI (imm : BitVec 12) (rs1 : RegIdx) (funct3 : BitVec 3) (rd : RegIdx) (opcode : BitVec 7) :
    fieldFunct3 (encodeI imm rs1 funct3 rd opcode) = funct3 := by
  unfold fieldFunct3 encodeI
  rw [BitVec.extractLsb'_append_eq_of_le (by decide)]
  rw [BitVec.extractLsb'_append_eq_of_le (by decide)]
  exact BitVec.extractLsb'_append_eq_right

@[simp] theorem fieldRs1_encodeI (imm : BitVec 12) (rs1 : RegIdx) (funct3 : BitVec 3) (rd : RegIdx) (opcode : BitVec 7) :
    fieldRs1 (encodeI imm rs1 funct3 rd opcode) = rs1 := by
  unfold fieldRs1 encodeI
  rw [BitVec.extractLsb'_append_eq_of_le (by decide)]
  rw [BitVec.extractLsb'_append_eq_of_le (by decide)]
  rw [BitVec.extractLsb'_append_eq_of_le (by decide)]
  exact BitVec.extractLsb'_append_eq_right

@[simp] theorem fieldImmI_encodeI (imm : BitVec 12) (rs1 : RegIdx) (funct3 : BitVec 3) (rd : RegIdx) (opcode : BitVec 7) :
    fieldImmI (encodeI imm rs1 funct3 rd opcode) = imm := by
  unfold fieldImmI encodeI
  rw [BitVec.extractLsb'_append_eq_of_le (by decide)]
  rw [BitVec.extractLsb'_append_eq_of_le (by decide)]
  rw [BitVec.extractLsb'_append_eq_of_le (by decide)]
  rw [BitVec.extractLsb'_append_eq_of_le (by decide)]
  exact BitVec.extractLsb'_eq_self

/-! ## S format -/

@[simp] theorem fieldOpcode_encodeS (imm : BitVec 12) (rs2 rs1 : RegIdx) (funct3 : BitVec 3) (opcode : BitVec 7) :
    fieldOpcode (encodeS imm rs2 rs1 funct3 opcode) = opcode := by
  unfold fieldOpcode encodeS
  exact BitVec.extractLsb'_append_eq_right

@[simp] theorem fieldFunct3_encodeS (imm : BitVec 12) (rs2 rs1 : RegIdx) (funct3 : BitVec 3) (opcode : BitVec 7) :
    fieldFunct3 (encodeS imm rs2 rs1 funct3 opcode) = funct3 := by
  unfold fieldFunct3 encodeS
  rw [BitVec.extractLsb'_append_eq_of_le (by decide)]
  rw [BitVec.extractLsb'_append_eq_of_le (by decide)]
  exact BitVec.extractLsb'_append_eq_right

@[simp] theorem fieldRs1_encodeS (imm : BitVec 12) (rs2 rs1 : RegIdx) (funct3 : BitVec 3) (opcode : BitVec 7) :
    fieldRs1 (encodeS imm rs2 rs1 funct3 opcode) = rs1 := by
  unfold fieldRs1 encodeS
  rw [BitVec.extractLsb'_append_eq_of_le (by decide)]
  rw [BitVec.extractLsb'_append_eq_of_le (by decide)]
  rw [BitVec.extractLsb'_append_eq_of_le (by decide)]
  exact BitVec.extractLsb'_append_eq_right

@[simp] theorem fieldRs2_encodeS (imm : BitVec 12) (rs2 rs1 : RegIdx) (funct3 : BitVec 3) (opcode : BitVec 7) :
    fieldRs2 (encodeS imm rs2 rs1 funct3 opcode) = rs2 := by
  unfold fieldRs2 encodeS
  rw [BitVec.extractLsb'_append_eq_of_le (by decide)]
  rw [BitVec.extractLsb'_append_eq_of_le (by decide)]
  rw [BitVec.extractLsb'_append_eq_of_le (by decide)]
  rw [BitVec.extractLsb'_append_eq_of_le (by decide)]
  exact BitVec.extractLsb'_append_eq_right

/-! ## B format -/

@[simp] theorem fieldOpcode_encodeB (offset : BitVec 13) (rs2 rs1 : RegIdx) (funct3 : BitVec 3) (opcode : BitVec 7) :
    fieldOpcode (encodeB offset rs2 rs1 funct3 opcode) = opcode := by
  unfold fieldOpcode encodeB
  exact BitVec.extractLsb'_append_eq_right

@[simp] theorem fieldFunct3_encodeB (offset : BitVec 13) (rs2 rs1 : RegIdx) (funct3 : BitVec 3) (opcode : BitVec 7) :
    fieldFunct3 (encodeB offset rs2 rs1 funct3 opcode) = funct3 := by
  unfold fieldFunct3 encodeB
  rw [BitVec.extractLsb'_append_eq_of_le (by decide)]
  rw [BitVec.extractLsb'_append_eq_of_le (by decide)]
  rw [BitVec.extractLsb'_append_eq_of_le (by decide)]
  exact BitVec.extractLsb'_append_eq_right

@[simp] theorem fieldRs1_encodeB (offset : BitVec 13) (rs2 rs1 : RegIdx) (funct3 : BitVec 3) (opcode : BitVec 7) :
    fieldRs1 (encodeB offset rs2 rs1 funct3 opcode) = rs1 := by
  unfold fieldRs1 encodeB
  rw [BitVec.extractLsb'_append_eq_of_le (by decide)]
  rw [BitVec.extractLsb'_append_eq_of_le (by decide)]
  rw [BitVec.extractLsb'_append_eq_of_le (by decide)]
  rw [BitVec.extractLsb'_append_eq_of_le (by decide)]
  exact BitVec.extractLsb'_append_eq_right

@[simp] theorem fieldRs2_encodeB (offset : BitVec 13) (rs2 rs1 : RegIdx) (funct3 : BitVec 3) (opcode : BitVec 7) :
    fieldRs2 (encodeB offset rs2 rs1 funct3 opcode) = rs2 := by
  unfold fieldRs2 encodeB
  rw [BitVec.extractLsb'_append_eq_of_le (by decide)]
  rw [BitVec.extractLsb'_append_eq_of_le (by decide)]
  rw [BitVec.extractLsb'_append_eq_of_le (by decide)]
  rw [BitVec.extractLsb'_append_eq_of_le (by decide)]
  rw [BitVec.extractLsb'_append_eq_of_le (by decide)]
  exact BitVec.extractLsb'_append_eq_right

/-! ## U format -/

@[simp] theorem fieldOpcode_encodeU (imm : BitVec 20) (rd : RegIdx) (opcode : BitVec 7) :
    fieldOpcode (encodeU imm rd opcode) = opcode := by
  unfold fieldOpcode encodeU
  exact BitVec.extractLsb'_append_eq_right

@[simp] theorem fieldRd_encodeU (imm : BitVec 20) (rd : RegIdx) (opcode : BitVec 7) :
    fieldRd (encodeU imm rd opcode) = rd := by
  unfold fieldRd encodeU
  rw [BitVec.extractLsb'_append_eq_of_le (by decide)]
  exact BitVec.extractLsb'_append_eq_right

@[simp] theorem fieldImmU_encodeU (imm : BitVec 20) (rd : RegIdx) (opcode : BitVec 7) :
    fieldImmU (encodeU imm rd opcode) = imm := by
  unfold fieldImmU encodeU
  rw [BitVec.extractLsb'_append_eq_of_le (by decide)]
  rw [BitVec.extractLsb'_append_eq_of_le (by decide)]
  exact BitVec.extractLsb'_eq_self

/-! ## J format -/

@[simp] theorem fieldOpcode_encodeJ (offset : BitVec 21) (rd : RegIdx) (opcode : BitVec 7) :
    fieldOpcode (encodeJ offset rd opcode) = opcode := by
  unfold fieldOpcode encodeJ
  exact BitVec.extractLsb'_append_eq_right

@[simp] theorem fieldRd_encodeJ (offset : BitVec 21) (rd : RegIdx) (opcode : BitVec 7) :
    fieldRd (encodeJ offset rd opcode) = rd := by
  unfold fieldRd encodeJ
  rw [BitVec.extractLsb'_append_eq_of_le (by decide)]
  exact BitVec.extractLsb'_append_eq_right

/-- The two parts of a 12-bit store immediate, put together again. -/
theorem append_immS (imm : BitVec 12) : imm.extractLsb' 5 7 ++ imm.extractLsb' 0 5 = imm := by
  refine (BitVec.extractLsb'_append_extractLsb'_eq_extractLsb' (by decide)).trans ?_
  exact BitVec.extractLsb'_eq_self

@[simp] theorem fieldImmS_encodeS (imm : BitVec 12) (rs2 rs1 : RegIdx) (funct3 : BitVec 3) (opcode : BitVec 7) :
    fieldImmS (encodeS imm rs2 rs1 funct3 opcode) = imm := by
  refine Eq.trans ?_ (append_immS imm)
  unfold fieldImmS encodeS
  congr 1
  · rw [BitVec.extractLsb'_append_eq_of_le (by decide)]
    rw [BitVec.extractLsb'_append_eq_of_le (by decide)]
    rw [BitVec.extractLsb'_append_eq_of_le (by decide)]
    rw [BitVec.extractLsb'_append_eq_of_le (by decide)]
    rw [BitVec.extractLsb'_append_eq_of_le (by decide)]
    exact BitVec.extractLsb'_eq_self
  · rw [BitVec.extractLsb'_append_eq_of_le (by decide)]
    exact BitVec.extractLsb'_append_eq_right

/-- An even 13-bit offset from its four parts. -/
theorem append_immB (offset : BitVec 13) (h : evenOffset offset = true) :
    offset.extractLsb' 12 1 ++ offset.extractLsb' 11 1 ++ offset.extractLsb' 5 6 ++ offset.extractLsb' 1 4
      ++ 0#1 = offset := by
  have h0 : (0#1) = offset.extractLsb' 0 1 := by
    apply BitVec.eq_of_toNat_eq
    have : offset.toNat % 2 = 0 := by
      have := h
      simp only [evenOffset, BitVec.getLsbD, Nat.testBit_zero, Bool.not_eq_true', decide_eq_false_iff_not] at this
      omega
    simp [this]
  rw [h0]
  rw [BitVec.extractLsb'_append_extractLsb'_eq_extractLsb' (by decide)]
  rw [BitVec.extractLsb'_append_extractLsb'_eq_extractLsb' (by decide)]
  rw [BitVec.extractLsb'_append_extractLsb'_eq_extractLsb' (by decide)]
  rw [BitVec.extractLsb'_append_extractLsb'_eq_extractLsb' (by decide)]
  exact BitVec.extractLsb'_eq_self

theorem fieldImmB_encodeB {offset : BitVec 13} (h : evenOffset offset = true) (rs2 rs1 : RegIdx)
    (funct3 : BitVec 3) (opcode : BitVec 7) : fieldImmB (encodeB offset rs2 rs1 funct3 opcode) = offset := by
  refine Eq.trans ?_ (append_immB offset h)
  unfold fieldImmB encodeB
  congr 1
  congr 1
  · congr 1
    · congr 1
      · rw [BitVec.extractLsb'_append_eq_of_le (by decide)]
        rw [BitVec.extractLsb'_append_eq_of_le (by decide)]
        rw [BitVec.extractLsb'_append_eq_of_le (by decide)]
        rw [BitVec.extractLsb'_append_eq_of_le (by decide)]
        rw [BitVec.extractLsb'_append_eq_of_le (by decide)]
        rw [BitVec.extractLsb'_append_eq_of_le (by decide)]
        rw [BitVec.extractLsb'_append_eq_of_le (by decide)]
        exact BitVec.extractLsb'_eq_self
      · rw [BitVec.extractLsb'_append_eq_of_le (by decide)]
        exact BitVec.extractLsb'_append_eq_right
    · rw [BitVec.extractLsb'_append_eq_of_le (by decide)]
      rw [BitVec.extractLsb'_append_eq_of_le (by decide)]
      rw [BitVec.extractLsb'_append_eq_of_le (by decide)]
      rw [BitVec.extractLsb'_append_eq_of_le (by decide)]
      rw [BitVec.extractLsb'_append_eq_of_le (by decide)]
      rw [BitVec.extractLsb'_append_eq_of_le (by decide)]
      exact BitVec.extractLsb'_append_eq_right
  · rw [BitVec.extractLsb'_append_eq_of_le (by decide)]
    rw [BitVec.extractLsb'_append_eq_of_le (by decide)]
    exact BitVec.extractLsb'_append_eq_right

/-- An even 21-bit offset from its four parts. -/
theorem append_immJ (offset : BitVec 21) (h : evenOffset offset = true) :
    offset.extractLsb' 20 1 ++ offset.extractLsb' 12 8 ++ offset.extractLsb' 11 1 ++ offset.extractLsb' 1 10
      ++ 0#1 = offset := by
  have h0 : (0#1) = offset.extractLsb' 0 1 := by
    apply BitVec.eq_of_toNat_eq
    have : offset.toNat % 2 = 0 := by
      have := h
      simp only [evenOffset, BitVec.getLsbD, Nat.testBit_zero, Bool.not_eq_true', decide_eq_false_iff_not] at this
      omega
    simp [this]
  rw [h0]
  rw [BitVec.extractLsb'_append_extractLsb'_eq_extractLsb' (by decide)]
  rw [BitVec.extractLsb'_append_extractLsb'_eq_extractLsb' (by decide)]
  rw [BitVec.extractLsb'_append_extractLsb'_eq_extractLsb' (by decide)]
  rw [BitVec.extractLsb'_append_extractLsb'_eq_extractLsb' (by decide)]
  exact BitVec.extractLsb'_eq_self

theorem fieldImmJ_encodeJ {offset : BitVec 21} (h : evenOffset offset = true) (rd : RegIdx)
    (opcode : BitVec 7) : fieldImmJ (encodeJ offset rd opcode) = offset := by
  refine Eq.trans ?_ (append_immJ offset h)
  unfold fieldImmJ encodeJ
  congr 1
  congr 1
  · congr 1
    · congr 1
      · rw [BitVec.extractLsb'_append_eq_of_le (by decide)]
        rw [BitVec.extractLsb'_append_eq_of_le (by decide)]
        rw [BitVec.extractLsb'_append_eq_of_le (by decide)]
        rw [BitVec.extractLsb'_append_eq_of_le (by decide)]
        rw [BitVec.extractLsb'_append_eq_of_le (by decide)]
        exact BitVec.extractLsb'_eq_self
      · rw [BitVec.extractLsb'_append_eq_of_le (by decide)]
        rw [BitVec.extractLsb'_append_eq_of_le (by decide)]
        exact BitVec.extractLsb'_append_eq_right
    · rw [BitVec.extractLsb'_append_eq_of_le (by decide)]
      rw [BitVec.extractLsb'_append_eq_of_le (by decide)]
      rw [BitVec.extractLsb'_append_eq_of_le (by decide)]
      exact BitVec.extractLsb'_append_eq_right
  · rw [BitVec.extractLsb'_append_eq_of_le (by decide)]
    rw [BitVec.extractLsb'_append_eq_of_le (by decide)]
    rw [BitVec.extractLsb'_append_eq_of_le (by decide)]
    rw [BitVec.extractLsb'_append_eq_of_le (by decide)]
    exact BitVec.extractLsb'_append_eq_right

/-! ## A word from its fields -/

theorem encodeR_fields (w : Word) :
    encodeR (fieldFunct7 w) (fieldRs2 w) (fieldRs1 w) (fieldFunct3 w) (fieldRd w) (fieldOpcode w) = w := by
  unfold encodeR fieldFunct7 fieldRs2 fieldRs1 fieldFunct3 fieldRd fieldOpcode
  rw [BitVec.extractLsb'_append_extractLsb'_eq_extractLsb' (by decide)]
  rw [BitVec.extractLsb'_append_extractLsb'_eq_extractLsb' (by decide)]
  rw [BitVec.extractLsb'_append_extractLsb'_eq_extractLsb' (by decide)]
  rw [BitVec.extractLsb'_append_extractLsb'_eq_extractLsb' (by decide)]
  rw [BitVec.extractLsb'_append_extractLsb'_eq_extractLsb' (by decide)]
  exact BitVec.extractLsb'_eq_self

theorem encodeI_fields (w : Word) :
    encodeI (fieldImmI w) (fieldRs1 w) (fieldFunct3 w) (fieldRd w) (fieldOpcode w) = w := by
  unfold encodeI fieldImmI fieldRs1 fieldFunct3 fieldRd fieldOpcode
  rw [BitVec.extractLsb'_append_extractLsb'_eq_extractLsb' (by decide)]
  rw [BitVec.extractLsb'_append_extractLsb'_eq_extractLsb' (by decide)]
  rw [BitVec.extractLsb'_append_extractLsb'_eq_extractLsb' (by decide)]
  rw [BitVec.extractLsb'_append_extractLsb'_eq_extractLsb' (by decide)]
  exact BitVec.extractLsb'_eq_self

theorem encodeU_fields (w : Word) : encodeU (fieldImmU w) (fieldRd w) (fieldOpcode w) = w := by
  unfold encodeU fieldImmU fieldRd fieldOpcode
  rw [BitVec.extractLsb'_append_extractLsb'_eq_extractLsb' (by decide)]
  rw [BitVec.extractLsb'_append_extractLsb'_eq_extractLsb' (by decide)]
  exact BitVec.extractLsb'_eq_self

theorem encodeS_fields (w : Word) :
    encodeS (fieldImmS w) (fieldRs2 w) (fieldRs1 w) (fieldFunct3 w) (fieldOpcode w) = w := by
  have h1 : (fieldImmS w).extractLsb' 5 7 = w.extractLsb' 25 7 := by
    unfold fieldImmS
    rw [BitVec.extractLsb'_append_eq_of_le (by decide)]
    exact BitVec.extractLsb'_eq_self
  have h2 : (fieldImmS w).extractLsb' 0 5 = w.extractLsb' 7 5 := BitVec.extractLsb'_append_eq_right
  unfold encodeS
  rw [h1, h2]
  exact encodeR_fields w

theorem encodeB_fields (w : Word) :
    encodeB (fieldImmB w) (fieldRs2 w) (fieldRs1 w) (fieldFunct3 w) (fieldOpcode w) = w := by
  have h12 : (fieldImmB w).extractLsb' 12 1 = w.extractLsb' 31 1 := by
    unfold fieldImmB
    rw [BitVec.extractLsb'_append_eq_of_le (by decide)]
    rw [BitVec.extractLsb'_append_eq_of_le (by decide)]
    rw [BitVec.extractLsb'_append_eq_of_le (by decide)]
    rw [BitVec.extractLsb'_append_eq_of_le (by decide)]
    exact BitVec.extractLsb'_eq_self
  have h11 : (fieldImmB w).extractLsb' 11 1 = w.extractLsb' 7 1 := by
    unfold fieldImmB
    rw [BitVec.extractLsb'_append_eq_of_le (by decide)]
    rw [BitVec.extractLsb'_append_eq_of_le (by decide)]
    rw [BitVec.extractLsb'_append_eq_of_le (by decide)]
    exact BitVec.extractLsb'_append_eq_right
  have h5 : (fieldImmB w).extractLsb' 5 6 = w.extractLsb' 25 6 := by
    unfold fieldImmB
    rw [BitVec.extractLsb'_append_eq_of_le (by decide)]
    rw [BitVec.extractLsb'_append_eq_of_le (by decide)]
    exact BitVec.extractLsb'_append_eq_right
  have h1 : (fieldImmB w).extractLsb' 1 4 = w.extractLsb' 8 4 := by
    unfold fieldImmB
    rw [BitVec.extractLsb'_append_eq_of_le (by decide)]
    exact BitVec.extractLsb'_append_eq_right
  unfold encodeB fieldRs2 fieldRs1 fieldFunct3 fieldOpcode
  rw [h12, h11, h5, h1]
  rw [BitVec.extractLsb'_append_extractLsb'_eq_extractLsb' (by decide)]
  rw [BitVec.extractLsb'_append_extractLsb'_eq_extractLsb' (by decide)]
  rw [BitVec.extractLsb'_append_extractLsb'_eq_extractLsb' (by decide)]
  rw [BitVec.extractLsb'_append_extractLsb'_eq_extractLsb' (by decide)]
  rw [BitVec.extractLsb'_append_extractLsb'_eq_extractLsb' (by decide)]
  rw [BitVec.extractLsb'_append_extractLsb'_eq_extractLsb' (by decide)]
  rw [BitVec.extractLsb'_append_extractLsb'_eq_extractLsb' (by decide)]
  exact BitVec.extractLsb'_eq_self

theorem encodeJ_fields (w : Word) : encodeJ (fieldImmJ w) (fieldRd w) (fieldOpcode w) = w := by
  have h20 : (fieldImmJ w).extractLsb' 20 1 = w.extractLsb' 31 1 := by
    unfold fieldImmJ
    rw [BitVec.extractLsb'_append_eq_of_le (by decide)]
    rw [BitVec.extractLsb'_append_eq_of_le (by decide)]
    rw [BitVec.extractLsb'_append_eq_of_le (by decide)]
    rw [BitVec.extractLsb'_append_eq_of_le (by decide)]
    exact BitVec.extractLsb'_eq_self
  have h12 : (fieldImmJ w).extractLsb' 12 8 = w.extractLsb' 12 8 := by
    unfold fieldImmJ
    rw [BitVec.extractLsb'_append_eq_of_le (by decide)]
    rw [BitVec.extractLsb'_append_eq_of_le (by decide)]
    rw [BitVec.extractLsb'_append_eq_of_le (by decide)]
    exact BitVec.extractLsb'_append_eq_right
  have h11 : (fieldImmJ w).extractLsb' 11 1 = w.extractLsb' 20 1 := by
    unfold fieldImmJ
    rw [BitVec.extractLsb'_append_eq_of_le (by decide)]
    rw [BitVec.extractLsb'_append_eq_of_le (by decide)]
    exact BitVec.extractLsb'_append_eq_right
  have h1 : (fieldImmJ w).extractLsb' 1 10 = w.extractLsb' 21 10 := by
    unfold fieldImmJ
    rw [BitVec.extractLsb'_append_eq_of_le (by decide)]
    exact BitVec.extractLsb'_append_eq_right
  unfold encodeJ fieldRd fieldOpcode
  rw [h20, h12, h11, h1]
  rw [BitVec.extractLsb'_append_extractLsb'_eq_extractLsb' (by decide)]
  rw [BitVec.extractLsb'_append_extractLsb'_eq_extractLsb' (by decide)]
  rw [BitVec.extractLsb'_append_extractLsb'_eq_extractLsb' (by decide)]
  rw [BitVec.extractLsb'_append_extractLsb'_eq_extractLsb' (by decide)]
  rw [BitVec.extractLsb'_append_extractLsb'_eq_extractLsb' (by decide)]
  exact BitVec.extractLsb'_eq_self

/-- A value with a 0 appended below is even. -/
theorem evenOffset_append_zero {n : Nat} (x : BitVec n) : evenOffset (x ++ 0#1) = true := by
  unfold evenOffset
  rw [BitVec.getLsbD_append]
  simp

/-- A decoded branch offset is even (R75). -/
theorem evenOffset_fieldImmB (w : Word) : evenOffset (fieldImmB w) = true := evenOffset_append_zero _

/-- A decoded JAL offset is even (R77). -/
theorem evenOffset_fieldImmJ (w : Word) : evenOffset (fieldImmJ w) = true := evenOffset_append_zero _

end Sys2Proof
end

