-- ==== Sys2Proof/Laws/Decode.lean ====
section
/-! SUPPORT. The decoder, one lemma per major opcode (30_encoding.md Table 30-3), and what it can answer:
an instruction whose own encoding is the word, well formed, or a refusal. -/

namespace Sys2Proof

section MajorOpcodes

variable {w : Word}

theorem decodeWord_lui (h : fieldOpcode w = 0x37#7) : decodeWord w = .ok (.lui (fieldRd w) (fieldImmU w)) := by
  delta decodeWord; rw [h]; rfl

theorem decodeWord_auipc (h : fieldOpcode w = 0x17#7) :
    decodeWord w = .ok (.auipc (fieldRd w) (fieldImmU w)) := by
  delta decodeWord; rw [h]; rfl

theorem decodeWord_jal (h : fieldOpcode w = 0x6F#7) : decodeWord w = .ok (.jal (fieldRd w) (fieldImmJ w)) := by
  delta decodeWord; rw [h]; rfl

theorem decodeWord_jalr (h : fieldOpcode w = 0x67#7) : decodeWord w = decodeJalr w := by
  delta decodeWord; rw [h]; rfl

theorem decodeWord_branch (h : fieldOpcode w = 0x63#7) : decodeWord w = decodeBranch w := by
  delta decodeWord; rw [h]; rfl

theorem decodeWord_load (h : fieldOpcode w = 0x03#7) : decodeWord w = decodeLoad w := by
  delta decodeWord; rw [h]; rfl

theorem decodeWord_store (h : fieldOpcode w = 0x23#7) : decodeWord w = decodeStore w := by
  delta decodeWord; rw [h]; rfl

theorem decodeWord_opImm (h : fieldOpcode w = 0x13#7) : decodeWord w = decodeOpImm w := by
  delta decodeWord; rw [h]; rfl

theorem decodeWord_opBase (h : fieldOpcode w = 0x33#7) (h' : fieldFunct7 w = 0b0000000#7) :
    decodeWord w = decodeOpBase w := by
  delta decodeWord decodeOp; rw [h, h']; rfl

theorem decodeWord_opAlternate (h : fieldOpcode w = 0x33#7) (h' : fieldFunct7 w = 0b0100000#7) :
    decodeWord w = decodeOpAlternate w := by
  delta decodeWord decodeOp; rw [h, h']; rfl

theorem decodeWord_opMulDiv (h : fieldOpcode w = 0x33#7) (h' : fieldFunct7 w = 0b0000001#7) :
    decodeWord w = decodeOpMulDiv w := by
  delta decodeWord decodeOp; rw [h, h']; rfl

theorem decodeWord_system (h : fieldOpcode w = 0x73#7) : decodeWord w = decodeSystem w := by
  delta decodeWord; rw [h]; rfl

end MajorOpcodes

end Sys2Proof
end

