-- ==== Sys2Proof/Laws/Registers.lean ====
section
/-! SUPPORT. The register file: what a read gives after a write (10_state.md R21, R22). -/

namespace Sys2Proof.Machine

/-- Register 0 always reads 0 (R21). -/
@[simp] theorem readReg_zero (s : State) : s.readReg 0 = 0 := rfl

/-- Writing register 0 changes nothing (R22). -/
@[simp] theorem writeReg_zero (s : State) (v : Word) : s.writeReg 0 v = s := rfl

/-- All a register write can do: rd reads the new value unless it is x0, and every other register reads as
before. -/
theorem readReg_writeReg (s : State) (rd : RegIdx) (v : Word) (r : RegIdx) :
    (s.writeReg rd v).readReg r = if r = rd ∧ r ≠ 0 then v else s.readReg r := by
  by_cases hr : r = 0
  · rw [if_neg (fun h => h.2 hr), hr]; rfl
  by_cases hd : rd = 0
  · rw [if_neg (fun h => hr (h.1.trans hd)), hd, writeReg_zero]
  have h1 : r.toNat ≠ 0 := fun h => hr (BitVec.eq_of_toNat_eq h)
  have h2 : rd.toNat ≠ 0 := fun h => hd (BitVec.eq_of_toNat_eq h)
  simp only [State.readReg, State.writeReg, dif_neg hr, dif_neg hd]
  by_cases he : r = rd
  · subst he
    rw [if_pos ⟨rfl, hr⟩, Vector.getElem_set_self]
  · have h3 : r.toNat ≠ rd.toNat := fun h => he (BitVec.eq_of_toNat_eq h)
    rw [if_neg (fun h => he h.1), Vector.getElem_set_ne _ _ (by omega)]

theorem readReg_writeReg_same (s : State) {rd : RegIdx} (h : rd ≠ 0) (v : Word) :
    (s.writeReg rd v).readReg rd = v := by
  rw [readReg_writeReg, if_pos ⟨rfl, h⟩]

theorem readReg_writeReg_ne (s : State) {rd r : RegIdx} (h : r ≠ rd) (v : Word) :
    (s.writeReg rd v).readReg r = s.readReg r := by
  rw [readReg_writeReg, if_neg (fun e => h e.1)]

end Sys2Proof.Machine
end

