-- ==== Sys2Proof/Laws/Meaning.lean ====
section
/-! SUPPORT. What each shared operation of the meanings can do, in the terms of Safety.lean. -/

namespace Sys2Proof.Machine

/-! ## Frames of the state updates -/

theorem sameRam_of_fields {s t : State} (h : t.ramWords = s.ramWords) (h' : t.ram = s.ram) : s.SameRam t :=
  ⟨ramSize_congr h, fun a => ramByte_congr h' a⟩

/-- A commit writes one register and pc. -/
theorem registerResult_commit (s : State) (rd : RegIdx) (v n : Word) :
    s.RegisterResult (s.commit rd v n) rd v n :=
  ⟨rfl, fun r => (commit_readReg s rd v n r).trans (readReg_writeReg s rd v r),
    sameRam_of_fields (commit_ramWords s rd v n) (commit_ram s rd v n), commit_output s rd v n,
    commit_halted s rd v n, commit_stop s rd v n, commit_currentInstruction s rd v n⟩

/-- Committing a program counter changes nothing else. -/
theorem onlyPcResult_commitPc (s : State) (n : Word) : s.OnlyPcResult (s.commitPc n) n :=
  ⟨rfl, fun _ => rfl, ⟨rfl, fun _ => rfl⟩, rfl, rfl, rfl, rfl⟩

/-- A stop changes only the halt flag and the stop status. -/
theorem stoppedWith_takeStop (s : State) (st : StopStatus) : s.StoppedWith (s.takeStop st) st :=
  ⟨rfl, rfl, rfl, fun _ => rfl, ⟨rfl, fun _ => rfl⟩, rfl, rfl⟩

/-- An event, then pc. -/
theorem eventResult_emit (s : State) (c : Channel) (n : Width) (v p : Word) :
    s.EventResult ((s.emit c n v).commitPc p) { channel := c, width := n, value := v } p :=
  ⟨rfl, fun _ => rfl, ⟨rfl, fun _ => rfl⟩, rfl, rfl, rfl, rfl⟩

/-- A store into RAM, then pc. -/
theorem storeResult_storeRam (s : State) (a : Nat) (v : Word) (n : Width) (p : Word) :
    s.StoreResult ((s.storeRam a v n).commitPc p) a n.bytes v p := by
  refine ⟨rfl, fun _ => rfl, rfl, fun k hk => ?_, fun b hb => ?_, rfl, rfl, rfl, rfl⟩
  · rw [commitPc_ramByte, ramByte_storeRam, if_pos (by omega), Nat.add_sub_cancel_left, byteOfWord]
  · rw [commitPc_ramByte, ramByte_storeRam, if_neg (by omega)]

/-! ## The meanings' shared operations -/

/-- A register-writing instruction that goes on at pc + 4. -/
theorem completeWith_eq (s : State) (rd : RegIdx) (v : Word) :
    s.completeWith rd v = .next (s.commit rd v (s.pc + 4)) := rfl

/-- A jump that links. -/
theorem linkAndJump_eq (s : State) (rd : RegIdx) (t : Word) :
    s.linkAndJump rd t = .next (s.commit rd (s.pc + 4) t) := rfl

/-- A conditional branch. -/
theorem branchOn_eq (s : State) (c : Bool) (offset : BitVec 13) :
    s.branchOn c offset = .next (s.commitPc (if c then s.branchTarget offset else s.pc + 4)) := rfl

/-- All a load can do: complete with the extended value of an `Ok` read, or stop. -/
theorem load_cases (s : State) (n : Width) (ext : Word → Word) (rd rs1 : RegIdx) (imm : BitVec 12) :
    (∃ v, s.busRead (s.loadAddress rs1 imm) n = .ok v ∧
      s.load n ext rd rs1 imm = .next (s.commit rd (ext v) (s.pc + 4))) ∨
    (s.busRead (s.loadAddress rs1 imm) n = .misaligned ∧
      s.load n ext rd rs1 imm = .next (s.takeStop (loadMisalignedStop (s.loadAddress rs1 imm) n s.pc))) ∨
    (s.busRead (s.loadAddress rs1 imm) n = .fatal ∧
      s.load n ext rd rs1 imm = .next (s.takeStop (fatalMemStop .read (s.loadAddress rs1 imm) n s.pc))) := by
  unfold State.load
  cases h : s.busRead (s.loadAddress rs1 imm) n with
  | ok v => exact .inl ⟨v, rfl, rfl⟩
  | misaligned => exact .inr (.inl ⟨rfl, rfl⟩)
  | fatal => exact .inr (.inr ⟨rfl, rfl⟩)

/-- All a store can do: complete with the bus's state after an `Ok` write, or stop. -/
theorem store_cases (s : State) (n : Width) (rs2 rs1 : RegIdx) (imm : BitVec 12) :
    (∃ t, s.busWrite (s.storeAddress rs1 imm) n (truncateTo (s.readReg rs2) n) = some t ∧
      s.store n rs2 rs1 imm = .next (t.commitPc (s.pc + 4))) ∨
    (s.busWrite (s.storeAddress rs1 imm) n (truncateTo (s.readReg rs2) n) = none ∧
      s.store n rs2 rs1 imm = .next (s.takeStop (fatalMemStop .write (s.storeAddress rs1 imm) n s.pc))) := by
  unfold State.store
  cases h : s.busWrite (s.storeAddress rs1 imm) n (truncateTo (s.readReg rs2) n) with
  | some t => exact .inl ⟨t, rfl, rfl⟩
  | none => exact .inr ⟨rfl, rfl⟩

/-- Truncation keeps the bytes that are stored. -/
theorem byteOfWord_truncateTo (v : Word) {n : Width} {k : Nat} (h : k < n.bytes) :
    byteOfWord (truncateTo v n) k = byteOfWord v k := by
  apply BitVec.eq_of_toNat_eq
  cases n <;> simp only [Width.bytes] at h
  · obtain rfl : k = 0 := by omega
    simp [byteOfWord, truncateTo]
  · simp only [byteOfWord, truncateTo, BitVec.extractLsb'_toNat, Nat.shiftRight_eq_div_pow,
      BitVec.toNat_setWidth]
    have : k = 0 ∨ k = 1 := by omega
    rcases this with rfl | rfl <;> omega
  · rfl

end Sys2Proof.Machine
end

