-- ==== Sys2Proof/Laws/Step.lean ====
section
/-! SUPPORT. What a step can do (40_execution_cycle.md R90). -/

namespace Sys2Proof.Machine

/-- A halted core does nothing (10_state.md R31). -/
theorem step_halted {s : State} (h : s.halted = true) : step s = .next s := by
  simp only [step, h, if_true]

theorem step_fetchFault {s : State} (h : s.halted = false) (hf : s.fetch = none) :
    step s = .next (s.takeStop (fetchFaultStop s.pc)) := by
  simp only [step, h, hf, State.stopFetchFault, Bool.false_eq_true, if_false]

theorem step_decodeFault {s : State} {w : Word} {e : DecodeError} (h : s.halted = false)
    (hf : s.fetch = some w) (hd : decodeWord w = .error e) :
    step s = .next ((s.recordFetch w).takeStop (decodeFaultStop w s.pc)) := by
  simp only [step, h, hf, hd, State.stopDecodeFault, recordFetch_pc, Bool.false_eq_true, if_false]

theorem step_exec {s : State} {w : Word} {i : Instr} (h : s.halted = false)
    (hf : s.fetch = some w) (hd : decodeWord w = .ok i) : step s = exec i (s.recordFetch w) := by
  simp only [step, h, hf, hd, Bool.false_eq_true, if_false]

/-- All a step can do. -/
theorem step_cases (s : State) :
    (s.halted = true ∧ step s = .next s) ∨
    (s.halted = false ∧ s.fetch = none ∧ step s = .next (s.takeStop (fetchFaultStop s.pc))) ∨
    (∃ w e, s.halted = false ∧ s.fetch = some w ∧ decodeWord w = .error e ∧
      step s = .next ((s.recordFetch w).takeStop (decodeFaultStop w s.pc))) ∨
    (∃ w i, s.halted = false ∧ s.fetch = some w ∧ decodeWord w = .ok i ∧
      step s = exec i (s.recordFetch w)) := by
  cases hh : s.halted with
  | true => exact .inl ⟨rfl, step_halted hh⟩
  | false =>
    cases hf : s.fetch with
    | none => exact .inr (.inl ⟨rfl, rfl, step_fetchFault hh hf⟩)
    | some w =>
      cases hd : decodeWord w with
      | error e => exact .inr (.inr (.inl ⟨w, e, rfl, rfl, hd, step_decodeFault hh hf hd⟩))
      | ok i => exact .inr (.inr (.inr ⟨w, i, rfl, rfl, hd, step_exec hh hf hd⟩))

/-- When a fetch succeeds, and with what. -/
theorem fetch_cases (s : State) :
    (inDeviceWindow s.pc = true ∧ s.fetch = some 0) ∨
    (inDeviceWindow s.pc = false ∧ (s.inRam s.pc = false ∨ s.pc.toNat % 4 ≠ 0) ∧ s.fetch = none) ∨
    (s.inRam s.pc = true ∧ s.pc.toNat % 4 = 0 ∧ s.fetch = some (s.readRam s.pc.toNat .word)) := by
  rcases busRead_cases s s.pc .word with ⟨h, e⟩ | ⟨h, h', e⟩ | ⟨h, h', e⟩ | ⟨h, h', e⟩
  · exact .inl ⟨h, by simp only [State.fetch, e]⟩
  · exact .inr (.inl ⟨h, .inl h', by simp only [State.fetch, e]⟩)
  · exact .inr (.inl ⟨not_window_of_inRam h, .inr h', by simp only [State.fetch, e]⟩)
  · exact .inr (.inr ⟨h, h', by simp only [State.fetch, e]⟩)

/-- A word stored at pc is the next word fetched (20_memory.md R58), where pc is a fetchable RAM address. -/
theorem fetch_storeFetchWord {s : State} (h : s.inRam s.pc = true) (h' : s.pc.toNat % 4 = 0) (w : Word) :
    (s.storeFetchWord w).fetch = some w := by
  have e : (s.storeFetchWord w).busRead s.pc .word = .ok w := by
    rw [busRead_ram (s := s.storeFetchWord w) (n := .word) h h', State.storeFetchWord, readRam_storeRam, truncateTo]
  show (match (s.storeFetchWord w).busRead s.pc .word with
    | .ok w => some w | .misaligned => none | .fatal => none) = some w
  rw [e]

end Sys2Proof.Machine
end

