-- ==== Sys2Proof/Laws/Effect.lean ====
section
/-! SUPPORT. All the kinds of next state an instruction can have: the one inversion from which whole-machine
facts follow. -/

namespace Sys2Proof.Machine

/-- The kinds of next state of `exec i s`. -/
inductive ExecEffect (i : Instr) (s : State) : State → Prop where
  /-- A register write and a program counter. -/
  | commit (rd : RegIdx) (v n : Word) : ExecEffect i s (s.commit rd v n)
  /-- A program counter. -/
  | commitPc (n : Word) : ExecEffect i s (s.commitPc n)
  /-- A store of n bytes at an aligned RAM address. -/
  | storeRam (a : Word) (v : Word) (n : Width) (hi : i.mnemonic ∈ storeMnemonics) (h : s.inRam a = true)
      (h' : a.toNat % n.bytes = 0) : ExecEffect i s ((s.storeRam a.toNat v n).commitPc (s.pc + 4))
  /-- An output event. -/
  | emit (c : Channel) (n : Width) (v : Word) (hi : i.mnemonic ∈ storeMnemonics) :
      ExecEffect i s ((s.emit c n v).commitPc (s.pc + 4))
  /-- LOAD_MISALIGNED. -/
  | misaligned (a : Word) (n : Width) (hi : i.mnemonic ∈ wideLoadMnemonics)
      (h : s.busRead a n = .misaligned) : ExecEffect i s (s.takeStop (loadMisalignedStop a n s.pc))
  /-- FATAL_MEM of a load. -/
  | fatalRead (a : Word) (n : Width) (hi : i.mnemonic ∈ loadMnemonics)
      (h : s.busRead a n = .fatal) : ExecEffect i s (s.takeStop (fatalMemStop .read a n s.pc))
  /-- FATAL_MEM of a store. -/
  | fatalWrite (a : Word) (n : Width) (hi : i.mnemonic ∈ storeMnemonics)
      (h : ∀ v, s.busWrite a n v = none) : ExecEffect i s (s.takeStop (fatalMemStop .write a n s.pc))
  /-- EBREAK. -/
  | ebreak (hi : i = .ebreak) : ExecEffect i s ((s.commitPc (s.pc + 4)).takeStop (haltEbreakStop s.pc))

/-- A load's next state. -/
theorem load_effect {i : Instr} (s : State) (n : Width) (ext : Word → Word) (rd rs1 : RegIdx)
    (imm : BitVec 12) (hi : i.mnemonic ∈ loadMnemonics)
    (hw : n ≠ .byte → i.mnemonic ∈ wideLoadMnemonics) :
    ∃ t, s.load n ext rd rs1 imm = .next t ∧ ExecEffect i s t := by
  rcases load_cases s n ext rd rs1 imm with ⟨v, -, e⟩ | ⟨h, e⟩ | ⟨h, e⟩
  · exact ⟨_, e, .commit ..⟩
  · refine ⟨_, e, .misaligned _ _ (hw ?_) h⟩
    rintro rfl
    rcases busRead_cases s (s.loadAddress rs1 imm) .byte with ⟨-, e⟩ | ⟨-, -, e⟩ | ⟨-, h', e⟩ | ⟨-, -, e⟩
    · simp [e] at h
    · simp [e] at h
    · exact h' (Nat.mod_one _)
    · simp [e] at h
  · exact ⟨_, e, .fatalRead _ _ hi h⟩

/-- A store's next state. -/
theorem store_effect {i : Instr} (s : State) (n : Width) (rs2 rs1 : RegIdx) (imm : BitVec 12)
    (hi : i.mnemonic ∈ storeMnemonics) : ∃ t, s.store n rs2 rs1 imm = .next t ∧ ExecEffect i s t := by
  rcases busWrite_cases s (s.storeAddress rs1 imm) n (truncateTo (s.readReg rs2) n) with
    ⟨c, -, h⟩ | ⟨h1, h2, h⟩ | ⟨-, -, h⟩
  · rcases store_cases s n rs2 rs1 imm with ⟨t, h', e⟩ | ⟨h', -⟩
    · obtain rfl : _ = t := Option.some.inj (h.symm.trans h')
      exact ⟨_, e, .emit _ _ _ hi⟩
    · rw [h] at h'; simp at h'
  · rcases store_cases s n rs2 rs1 imm with ⟨t, h', e⟩ | ⟨h', -⟩
    · obtain rfl : _ = t := Option.some.inj (h.symm.trans h')
      exact ⟨_, e, .storeRam _ _ _ hi h1 h2⟩
    · rw [h] at h'; simp at h'
  · rcases store_cases s n rs2 rs1 imm with ⟨t, h', -⟩ | ⟨-, e⟩
    · rw [h] at h'; simp at h'
    · exact ⟨_, e, .fatalWrite _ _ hi h⟩

/-- All an instruction can do: it always has a next state, of one of the kinds of `ExecEffect`. -/
theorem exec_effect (i : Instr) (s : State) : ∃ t, exec i s = .next t ∧ ExecEffect i s t := by
  cases i with
  | lui rd imm => exact ⟨_, rfl, .commit ..⟩
  | auipc rd imm => exact ⟨_, rfl, .commit ..⟩
  | jal rd offset => exact ⟨_, rfl, .commit ..⟩
  | jalr rd rs1 imm => exact ⟨_, rfl, .commit ..⟩
  | beq rs1 rs2 offset => exact ⟨_, rfl, .commitPc _⟩
  | bne rs1 rs2 offset => exact ⟨_, rfl, .commitPc _⟩
  | blt rs1 rs2 offset => exact ⟨_, rfl, .commitPc _⟩
  | bge rs1 rs2 offset => exact ⟨_, rfl, .commitPc _⟩
  | bltu rs1 rs2 offset => exact ⟨_, rfl, .commitPc _⟩
  | bgeu rs1 rs2 offset => exact ⟨_, rfl, .commitPc _⟩
  | lb rd rs1 imm => exact load_effect s _ _ rd rs1 imm (by simp [Instr.mnemonic, loadMnemonics]) (fun h => absurd rfl h)
  | lh rd rs1 imm => exact load_effect s _ _ rd rs1 imm (by simp [Instr.mnemonic, loadMnemonics]) (fun _ => by simp [Instr.mnemonic, wideLoadMnemonics])
  | lw rd rs1 imm => exact load_effect s _ _ rd rs1 imm (by simp [Instr.mnemonic, loadMnemonics]) (fun _ => by simp [Instr.mnemonic, wideLoadMnemonics])
  | lbu rd rs1 imm => exact load_effect s _ _ rd rs1 imm (by simp [Instr.mnemonic, loadMnemonics]) (fun h => absurd rfl h)
  | lhu rd rs1 imm => exact load_effect s _ _ rd rs1 imm (by simp [Instr.mnemonic, loadMnemonics]) (fun _ => by simp [Instr.mnemonic, wideLoadMnemonics])
  | sb rs2 rs1 imm => exact store_effect s _ rs2 rs1 imm (by simp [Instr.mnemonic, storeMnemonics])
  | sh rs2 rs1 imm => exact store_effect s _ rs2 rs1 imm (by simp [Instr.mnemonic, storeMnemonics])
  | sw rs2 rs1 imm => exact store_effect s _ rs2 rs1 imm (by simp [Instr.mnemonic, storeMnemonics])
  | addi rd rs1 imm => exact ⟨_, rfl, .commit ..⟩
  | slti rd rs1 imm => exact ⟨_, rfl, .commit ..⟩
  | sltiu rd rs1 imm => exact ⟨_, rfl, .commit ..⟩
  | xori rd rs1 imm => exact ⟨_, rfl, .commit ..⟩
  | ori rd rs1 imm => exact ⟨_, rfl, .commit ..⟩
  | andi rd rs1 imm => exact ⟨_, rfl, .commit ..⟩
  | slli rd rs1 shamt => exact ⟨_, rfl, .commit ..⟩
  | srli rd rs1 shamt => exact ⟨_, rfl, .commit ..⟩
  | srai rd rs1 shamt => exact ⟨_, rfl, .commit ..⟩
  | add rd rs1 rs2 => exact ⟨_, rfl, .commit ..⟩
  | sub rd rs1 rs2 => exact ⟨_, rfl, .commit ..⟩
  | sll rd rs1 rs2 => exact ⟨_, rfl, .commit ..⟩
  | slt rd rs1 rs2 => exact ⟨_, rfl, .commit ..⟩
  | sltu rd rs1 rs2 => exact ⟨_, rfl, .commit ..⟩
  | xor rd rs1 rs2 => exact ⟨_, rfl, .commit ..⟩
  | srl rd rs1 rs2 => exact ⟨_, rfl, .commit ..⟩
  | sra rd rs1 rs2 => exact ⟨_, rfl, .commit ..⟩
  | or rd rs1 rs2 => exact ⟨_, rfl, .commit ..⟩
  | and rd rs1 rs2 => exact ⟨_, rfl, .commit ..⟩
  | mul rd rs1 rs2 => exact ⟨_, rfl, .commit ..⟩
  | mulh rd rs1 rs2 => exact ⟨_, rfl, .commit ..⟩
  | mulhsu rd rs1 rs2 => exact ⟨_, rfl, .commit ..⟩
  | mulhu rd rs1 rs2 => exact ⟨_, rfl, .commit ..⟩
  | div rd rs1 rs2 => exact ⟨_, rfl, .commit ..⟩
  | divu rd rs1 rs2 => exact ⟨_, rfl, .commit ..⟩
  | rem rd rs1 rs2 => exact ⟨_, rfl, .commit ..⟩
  | remu rd rs1 rs2 => exact ⟨_, rfl, .commit ..⟩
  | ecall => exact ⟨_, rfl, .commit ..⟩
  | ebreak => exact ⟨_, rfl, .ebreak rfl⟩

/-- The next state of an instruction is of one of the kinds of `ExecEffect`. -/
theorem effect_of_exec {i : Instr} {s t : State} (h : exec i s = .next t) : ExecEffect i s t := by
  obtain ⟨t', h', e⟩ := exec_effect i s
  rw [h] at h'
  cases h'
  exact e

end Sys2Proof.Machine
end

