-- ==== Sys2Proof/Laws/PerInstr.lean ====
section
/-! SUPPORT. Per-instruction facts about the encoding: decoding the word of a well-formed instruction gives
the instruction back (30_encoding.md R72 to R81). -/

namespace Sys2Proof.Laws

/-- Decoding the word of i, if i is well formed, gives i. -/
def RoundTrip.Statement (i : Instr) : Prop := i.wf = true → decodeWord (encode i) = .ok i

end Sys2Proof.Laws

theorem Sys2Proof.Laws.RoundTrip.lui (rd : Sys2Proof.RegIdx) (imm : BitVec 20) :
    Sys2Proof.Laws.RoundTrip.Statement (.lui rd imm) := by
  intro _
  show Sys2Proof.decodeWord (Sys2Proof.encodeU imm rd 0x37#7) = _
  refine (Sys2Proof.decodeWord_lui (Sys2Proof.fieldOpcode_encodeU ..)).trans ?_
  simp

theorem Sys2Proof.Laws.RoundTrip.auipc (rd : Sys2Proof.RegIdx) (imm : BitVec 20) :
    Sys2Proof.Laws.RoundTrip.Statement (.auipc rd imm) := by
  intro _
  show Sys2Proof.decodeWord (Sys2Proof.encodeU imm rd 0x17#7) = _
  refine (Sys2Proof.decodeWord_auipc (Sys2Proof.fieldOpcode_encodeU ..)).trans ?_
  simp

theorem Sys2Proof.Laws.RoundTrip.jal (rd : Sys2Proof.RegIdx) (offset : BitVec 21) :
    Sys2Proof.Laws.RoundTrip.Statement (.jal rd offset) := by
  intro h
  show Sys2Proof.decodeWord (Sys2Proof.encodeJ offset rd 0x6F#7) = _
  refine (Sys2Proof.decodeWord_jal (Sys2Proof.fieldOpcode_encodeJ ..)).trans ?_
  have e := Sys2Proof.fieldImmJ_encodeJ h
  simp [e]

theorem Sys2Proof.Laws.RoundTrip.jalr (rd : Sys2Proof.RegIdx) (rs1 : Sys2Proof.RegIdx) (imm : BitVec 12) :
    Sys2Proof.Laws.RoundTrip.Statement (.jalr rd rs1 imm) := by
  intro _
  show Sys2Proof.decodeWord (Sys2Proof.encodeI imm rs1 0b000#3 rd 0x67#7) = _
  refine (Sys2Proof.decodeWord_jalr (Sys2Proof.fieldOpcode_encodeI ..)).trans ?_
  delta Sys2Proof.decodeJalr
  simp

theorem Sys2Proof.Laws.RoundTrip.beq (rs1 : Sys2Proof.RegIdx) (rs2 : Sys2Proof.RegIdx) (offset : BitVec 13) :
    Sys2Proof.Laws.RoundTrip.Statement (.beq rs1 rs2 offset) := by
  intro h
  show Sys2Proof.decodeWord (Sys2Proof.encodeB offset rs2 rs1 0b000#3 0x63#7) = _
  refine (Sys2Proof.decodeWord_branch (Sys2Proof.fieldOpcode_encodeB ..)).trans ?_
  have e := Sys2Proof.fieldImmB_encodeB h
  delta Sys2Proof.decodeBranch
  simp [e]

theorem Sys2Proof.Laws.RoundTrip.bne (rs1 : Sys2Proof.RegIdx) (rs2 : Sys2Proof.RegIdx) (offset : BitVec 13) :
    Sys2Proof.Laws.RoundTrip.Statement (.bne rs1 rs2 offset) := by
  intro h
  show Sys2Proof.decodeWord (Sys2Proof.encodeB offset rs2 rs1 0b001#3 0x63#7) = _
  refine (Sys2Proof.decodeWord_branch (Sys2Proof.fieldOpcode_encodeB ..)).trans ?_
  have e := Sys2Proof.fieldImmB_encodeB h
  delta Sys2Proof.decodeBranch
  simp [e]

theorem Sys2Proof.Laws.RoundTrip.blt (rs1 : Sys2Proof.RegIdx) (rs2 : Sys2Proof.RegIdx) (offset : BitVec 13) :
    Sys2Proof.Laws.RoundTrip.Statement (.blt rs1 rs2 offset) := by
  intro h
  show Sys2Proof.decodeWord (Sys2Proof.encodeB offset rs2 rs1 0b100#3 0x63#7) = _
  refine (Sys2Proof.decodeWord_branch (Sys2Proof.fieldOpcode_encodeB ..)).trans ?_
  have e := Sys2Proof.fieldImmB_encodeB h
  delta Sys2Proof.decodeBranch
  simp [e]

theorem Sys2Proof.Laws.RoundTrip.bge (rs1 : Sys2Proof.RegIdx) (rs2 : Sys2Proof.RegIdx) (offset : BitVec 13) :
    Sys2Proof.Laws.RoundTrip.Statement (.bge rs1 rs2 offset) := by
  intro h
  show Sys2Proof.decodeWord (Sys2Proof.encodeB offset rs2 rs1 0b101#3 0x63#7) = _
  refine (Sys2Proof.decodeWord_branch (Sys2Proof.fieldOpcode_encodeB ..)).trans ?_
  have e := Sys2Proof.fieldImmB_encodeB h
  delta Sys2Proof.decodeBranch
  simp [e]

theorem Sys2Proof.Laws.RoundTrip.bltu (rs1 : Sys2Proof.RegIdx) (rs2 : Sys2Proof.RegIdx) (offset : BitVec 13) :
    Sys2Proof.Laws.RoundTrip.Statement (.bltu rs1 rs2 offset) := by
  intro h
  show Sys2Proof.decodeWord (Sys2Proof.encodeB offset rs2 rs1 0b110#3 0x63#7) = _
  refine (Sys2Proof.decodeWord_branch (Sys2Proof.fieldOpcode_encodeB ..)).trans ?_
  have e := Sys2Proof.fieldImmB_encodeB h
  delta Sys2Proof.decodeBranch
  simp [e]

theorem Sys2Proof.Laws.RoundTrip.bgeu (rs1 : Sys2Proof.RegIdx) (rs2 : Sys2Proof.RegIdx) (offset : BitVec 13) :
    Sys2Proof.Laws.RoundTrip.Statement (.bgeu rs1 rs2 offset) := by
  intro h
  show Sys2Proof.decodeWord (Sys2Proof.encodeB offset rs2 rs1 0b111#3 0x63#7) = _
  refine (Sys2Proof.decodeWord_branch (Sys2Proof.fieldOpcode_encodeB ..)).trans ?_
  have e := Sys2Proof.fieldImmB_encodeB h
  delta Sys2Proof.decodeBranch
  simp [e]

theorem Sys2Proof.Laws.RoundTrip.lb (rd : Sys2Proof.RegIdx) (rs1 : Sys2Proof.RegIdx) (imm : BitVec 12) :
    Sys2Proof.Laws.RoundTrip.Statement (.lb rd rs1 imm) := by
  intro _
  show Sys2Proof.decodeWord (Sys2Proof.encodeI imm rs1 0b000#3 rd 0x03#7) = _
  refine (Sys2Proof.decodeWord_load (Sys2Proof.fieldOpcode_encodeI ..)).trans ?_
  delta Sys2Proof.decodeLoad
  simp

theorem Sys2Proof.Laws.RoundTrip.lh (rd : Sys2Proof.RegIdx) (rs1 : Sys2Proof.RegIdx) (imm : BitVec 12) :
    Sys2Proof.Laws.RoundTrip.Statement (.lh rd rs1 imm) := by
  intro _
  show Sys2Proof.decodeWord (Sys2Proof.encodeI imm rs1 0b001#3 rd 0x03#7) = _
  refine (Sys2Proof.decodeWord_load (Sys2Proof.fieldOpcode_encodeI ..)).trans ?_
  delta Sys2Proof.decodeLoad
  simp

theorem Sys2Proof.Laws.RoundTrip.lw (rd : Sys2Proof.RegIdx) (rs1 : Sys2Proof.RegIdx) (imm : BitVec 12) :
    Sys2Proof.Laws.RoundTrip.Statement (.lw rd rs1 imm) := by
  intro _
  show Sys2Proof.decodeWord (Sys2Proof.encodeI imm rs1 0b010#3 rd 0x03#7) = _
  refine (Sys2Proof.decodeWord_load (Sys2Proof.fieldOpcode_encodeI ..)).trans ?_
  delta Sys2Proof.decodeLoad
  simp

theorem Sys2Proof.Laws.RoundTrip.lbu (rd : Sys2Proof.RegIdx) (rs1 : Sys2Proof.RegIdx) (imm : BitVec 12) :
    Sys2Proof.Laws.RoundTrip.Statement (.lbu rd rs1 imm) := by
  intro _
  show Sys2Proof.decodeWord (Sys2Proof.encodeI imm rs1 0b100#3 rd 0x03#7) = _
  refine (Sys2Proof.decodeWord_load (Sys2Proof.fieldOpcode_encodeI ..)).trans ?_
  delta Sys2Proof.decodeLoad
  simp

theorem Sys2Proof.Laws.RoundTrip.lhu (rd : Sys2Proof.RegIdx) (rs1 : Sys2Proof.RegIdx) (imm : BitVec 12) :
    Sys2Proof.Laws.RoundTrip.Statement (.lhu rd rs1 imm) := by
  intro _
  show Sys2Proof.decodeWord (Sys2Proof.encodeI imm rs1 0b101#3 rd 0x03#7) = _
  refine (Sys2Proof.decodeWord_load (Sys2Proof.fieldOpcode_encodeI ..)).trans ?_
  delta Sys2Proof.decodeLoad
  simp

theorem Sys2Proof.Laws.RoundTrip.sb (rs2 : Sys2Proof.RegIdx) (rs1 : Sys2Proof.RegIdx) (imm : BitVec 12) :
    Sys2Proof.Laws.RoundTrip.Statement (.sb rs2 rs1 imm) := by
  intro _
  show Sys2Proof.decodeWord (Sys2Proof.encodeS imm rs2 rs1 0b000#3 0x23#7) = _
  refine (Sys2Proof.decodeWord_store (Sys2Proof.fieldOpcode_encodeS ..)).trans ?_
  delta Sys2Proof.decodeStore
  simp

theorem Sys2Proof.Laws.RoundTrip.sh (rs2 : Sys2Proof.RegIdx) (rs1 : Sys2Proof.RegIdx) (imm : BitVec 12) :
    Sys2Proof.Laws.RoundTrip.Statement (.sh rs2 rs1 imm) := by
  intro _
  show Sys2Proof.decodeWord (Sys2Proof.encodeS imm rs2 rs1 0b001#3 0x23#7) = _
  refine (Sys2Proof.decodeWord_store (Sys2Proof.fieldOpcode_encodeS ..)).trans ?_
  delta Sys2Proof.decodeStore
  simp

theorem Sys2Proof.Laws.RoundTrip.sw (rs2 : Sys2Proof.RegIdx) (rs1 : Sys2Proof.RegIdx) (imm : BitVec 12) :
    Sys2Proof.Laws.RoundTrip.Statement (.sw rs2 rs1 imm) := by
  intro _
  show Sys2Proof.decodeWord (Sys2Proof.encodeS imm rs2 rs1 0b010#3 0x23#7) = _
  refine (Sys2Proof.decodeWord_store (Sys2Proof.fieldOpcode_encodeS ..)).trans ?_
  delta Sys2Proof.decodeStore
  simp

theorem Sys2Proof.Laws.RoundTrip.addi (rd : Sys2Proof.RegIdx) (rs1 : Sys2Proof.RegIdx) (imm : BitVec 12) :
    Sys2Proof.Laws.RoundTrip.Statement (.addi rd rs1 imm) := by
  intro _
  show Sys2Proof.decodeWord (Sys2Proof.encodeI imm rs1 0b000#3 rd 0x13#7) = _
  refine (Sys2Proof.decodeWord_opImm (Sys2Proof.fieldOpcode_encodeI ..)).trans ?_
  delta Sys2Proof.decodeOpImm
  simp

theorem Sys2Proof.Laws.RoundTrip.slti (rd : Sys2Proof.RegIdx) (rs1 : Sys2Proof.RegIdx) (imm : BitVec 12) :
    Sys2Proof.Laws.RoundTrip.Statement (.slti rd rs1 imm) := by
  intro _
  show Sys2Proof.decodeWord (Sys2Proof.encodeI imm rs1 0b010#3 rd 0x13#7) = _
  refine (Sys2Proof.decodeWord_opImm (Sys2Proof.fieldOpcode_encodeI ..)).trans ?_
  delta Sys2Proof.decodeOpImm
  simp

theorem Sys2Proof.Laws.RoundTrip.sltiu (rd : Sys2Proof.RegIdx) (rs1 : Sys2Proof.RegIdx) (imm : BitVec 12) :
    Sys2Proof.Laws.RoundTrip.Statement (.sltiu rd rs1 imm) := by
  intro _
  show Sys2Proof.decodeWord (Sys2Proof.encodeI imm rs1 0b011#3 rd 0x13#7) = _
  refine (Sys2Proof.decodeWord_opImm (Sys2Proof.fieldOpcode_encodeI ..)).trans ?_
  delta Sys2Proof.decodeOpImm
  simp

theorem Sys2Proof.Laws.RoundTrip.xori (rd : Sys2Proof.RegIdx) (rs1 : Sys2Proof.RegIdx) (imm : BitVec 12) :
    Sys2Proof.Laws.RoundTrip.Statement (.xori rd rs1 imm) := by
  intro _
  show Sys2Proof.decodeWord (Sys2Proof.encodeI imm rs1 0b100#3 rd 0x13#7) = _
  refine (Sys2Proof.decodeWord_opImm (Sys2Proof.fieldOpcode_encodeI ..)).trans ?_
  delta Sys2Proof.decodeOpImm
  simp

theorem Sys2Proof.Laws.RoundTrip.ori (rd : Sys2Proof.RegIdx) (rs1 : Sys2Proof.RegIdx) (imm : BitVec 12) :
    Sys2Proof.Laws.RoundTrip.Statement (.ori rd rs1 imm) := by
  intro _
  show Sys2Proof.decodeWord (Sys2Proof.encodeI imm rs1 0b110#3 rd 0x13#7) = _
  refine (Sys2Proof.decodeWord_opImm (Sys2Proof.fieldOpcode_encodeI ..)).trans ?_
  delta Sys2Proof.decodeOpImm
  simp

theorem Sys2Proof.Laws.RoundTrip.andi (rd : Sys2Proof.RegIdx) (rs1 : Sys2Proof.RegIdx) (imm : BitVec 12) :
    Sys2Proof.Laws.RoundTrip.Statement (.andi rd rs1 imm) := by
  intro _
  show Sys2Proof.decodeWord (Sys2Proof.encodeI imm rs1 0b111#3 rd 0x13#7) = _
  refine (Sys2Proof.decodeWord_opImm (Sys2Proof.fieldOpcode_encodeI ..)).trans ?_
  delta Sys2Proof.decodeOpImm
  simp

theorem Sys2Proof.Laws.RoundTrip.slli (rd : Sys2Proof.RegIdx) (rs1 : Sys2Proof.RegIdx) (shamt : BitVec 5) :
    Sys2Proof.Laws.RoundTrip.Statement (.slli rd rs1 shamt) := by
  intro _
  show Sys2Proof.decodeWord (Sys2Proof.encodeR 0b0000000#7 shamt rs1 0b001#3 rd 0x13#7) = _
  refine (Sys2Proof.decodeWord_opImm (Sys2Proof.fieldOpcode_encodeR ..)).trans ?_
  delta Sys2Proof.decodeOpImm
  simp

theorem Sys2Proof.Laws.RoundTrip.srli (rd : Sys2Proof.RegIdx) (rs1 : Sys2Proof.RegIdx) (shamt : BitVec 5) :
    Sys2Proof.Laws.RoundTrip.Statement (.srli rd rs1 shamt) := by
  intro _
  show Sys2Proof.decodeWord (Sys2Proof.encodeR 0b0000000#7 shamt rs1 0b101#3 rd 0x13#7) = _
  refine (Sys2Proof.decodeWord_opImm (Sys2Proof.fieldOpcode_encodeR ..)).trans ?_
  delta Sys2Proof.decodeOpImm
  simp

theorem Sys2Proof.Laws.RoundTrip.srai (rd : Sys2Proof.RegIdx) (rs1 : Sys2Proof.RegIdx) (shamt : BitVec 5) :
    Sys2Proof.Laws.RoundTrip.Statement (.srai rd rs1 shamt) := by
  intro _
  show Sys2Proof.decodeWord (Sys2Proof.encodeR 0b0100000#7 shamt rs1 0b101#3 rd 0x13#7) = _
  refine (Sys2Proof.decodeWord_opImm (Sys2Proof.fieldOpcode_encodeR ..)).trans ?_
  delta Sys2Proof.decodeOpImm
  simp

theorem Sys2Proof.Laws.RoundTrip.add (rd : Sys2Proof.RegIdx) (rs1 : Sys2Proof.RegIdx) (rs2 : Sys2Proof.RegIdx) :
    Sys2Proof.Laws.RoundTrip.Statement (.add rd rs1 rs2) := by
  intro _
  show Sys2Proof.decodeWord (Sys2Proof.encodeR 0b0000000#7 rs2 rs1 0b000#3 rd 0x33#7) = _
  refine (Sys2Proof.decodeWord_opBase (Sys2Proof.fieldOpcode_encodeR ..) (Sys2Proof.fieldFunct7_encodeR ..)).trans ?_
  delta Sys2Proof.decodeOpBase
  simp

theorem Sys2Proof.Laws.RoundTrip.sub (rd : Sys2Proof.RegIdx) (rs1 : Sys2Proof.RegIdx) (rs2 : Sys2Proof.RegIdx) :
    Sys2Proof.Laws.RoundTrip.Statement (.sub rd rs1 rs2) := by
  intro _
  show Sys2Proof.decodeWord (Sys2Proof.encodeR 0b0100000#7 rs2 rs1 0b000#3 rd 0x33#7) = _
  refine (Sys2Proof.decodeWord_opAlternate (Sys2Proof.fieldOpcode_encodeR ..) (Sys2Proof.fieldFunct7_encodeR ..)).trans ?_
  delta Sys2Proof.decodeOpAlternate
  simp

theorem Sys2Proof.Laws.RoundTrip.sll (rd : Sys2Proof.RegIdx) (rs1 : Sys2Proof.RegIdx) (rs2 : Sys2Proof.RegIdx) :
    Sys2Proof.Laws.RoundTrip.Statement (.sll rd rs1 rs2) := by
  intro _
  show Sys2Proof.decodeWord (Sys2Proof.encodeR 0b0000000#7 rs2 rs1 0b001#3 rd 0x33#7) = _
  refine (Sys2Proof.decodeWord_opBase (Sys2Proof.fieldOpcode_encodeR ..) (Sys2Proof.fieldFunct7_encodeR ..)).trans ?_
  delta Sys2Proof.decodeOpBase
  simp

theorem Sys2Proof.Laws.RoundTrip.slt (rd : Sys2Proof.RegIdx) (rs1 : Sys2Proof.RegIdx) (rs2 : Sys2Proof.RegIdx) :
    Sys2Proof.Laws.RoundTrip.Statement (.slt rd rs1 rs2) := by
  intro _
  show Sys2Proof.decodeWord (Sys2Proof.encodeR 0b0000000#7 rs2 rs1 0b010#3 rd 0x33#7) = _
  refine (Sys2Proof.decodeWord_opBase (Sys2Proof.fieldOpcode_encodeR ..) (Sys2Proof.fieldFunct7_encodeR ..)).trans ?_
  delta Sys2Proof.decodeOpBase
  simp

theorem Sys2Proof.Laws.RoundTrip.sltu (rd : Sys2Proof.RegIdx) (rs1 : Sys2Proof.RegIdx) (rs2 : Sys2Proof.RegIdx) :
    Sys2Proof.Laws.RoundTrip.Statement (.sltu rd rs1 rs2) := by
  intro _
  show Sys2Proof.decodeWord (Sys2Proof.encodeR 0b0000000#7 rs2 rs1 0b011#3 rd 0x33#7) = _
  refine (Sys2Proof.decodeWord_opBase (Sys2Proof.fieldOpcode_encodeR ..) (Sys2Proof.fieldFunct7_encodeR ..)).trans ?_
  delta Sys2Proof.decodeOpBase
  simp

theorem Sys2Proof.Laws.RoundTrip.xor (rd : Sys2Proof.RegIdx) (rs1 : Sys2Proof.RegIdx) (rs2 : Sys2Proof.RegIdx) :
    Sys2Proof.Laws.RoundTrip.Statement (.xor rd rs1 rs2) := by
  intro _
  show Sys2Proof.decodeWord (Sys2Proof.encodeR 0b0000000#7 rs2 rs1 0b100#3 rd 0x33#7) = _
  refine (Sys2Proof.decodeWord_opBase (Sys2Proof.fieldOpcode_encodeR ..) (Sys2Proof.fieldFunct7_encodeR ..)).trans ?_
  delta Sys2Proof.decodeOpBase
  simp

theorem Sys2Proof.Laws.RoundTrip.srl (rd : Sys2Proof.RegIdx) (rs1 : Sys2Proof.RegIdx) (rs2 : Sys2Proof.RegIdx) :
    Sys2Proof.Laws.RoundTrip.Statement (.srl rd rs1 rs2) := by
  intro _
  show Sys2Proof.decodeWord (Sys2Proof.encodeR 0b0000000#7 rs2 rs1 0b101#3 rd 0x33#7) = _
  refine (Sys2Proof.decodeWord_opBase (Sys2Proof.fieldOpcode_encodeR ..) (Sys2Proof.fieldFunct7_encodeR ..)).trans ?_
  delta Sys2Proof.decodeOpBase
  simp

theorem Sys2Proof.Laws.RoundTrip.sra (rd : Sys2Proof.RegIdx) (rs1 : Sys2Proof.RegIdx) (rs2 : Sys2Proof.RegIdx) :
    Sys2Proof.Laws.RoundTrip.Statement (.sra rd rs1 rs2) := by
  intro _
  show Sys2Proof.decodeWord (Sys2Proof.encodeR 0b0100000#7 rs2 rs1 0b101#3 rd 0x33#7) = _
  refine (Sys2Proof.decodeWord_opAlternate (Sys2Proof.fieldOpcode_encodeR ..) (Sys2Proof.fieldFunct7_encodeR ..)).trans ?_
  delta Sys2Proof.decodeOpAlternate
  simp

theorem Sys2Proof.Laws.RoundTrip.or (rd : Sys2Proof.RegIdx) (rs1 : Sys2Proof.RegIdx) (rs2 : Sys2Proof.RegIdx) :
    Sys2Proof.Laws.RoundTrip.Statement (.or rd rs1 rs2) := by
  intro _
  show Sys2Proof.decodeWord (Sys2Proof.encodeR 0b0000000#7 rs2 rs1 0b110#3 rd 0x33#7) = _
  refine (Sys2Proof.decodeWord_opBase (Sys2Proof.fieldOpcode_encodeR ..) (Sys2Proof.fieldFunct7_encodeR ..)).trans ?_
  delta Sys2Proof.decodeOpBase
  simp

theorem Sys2Proof.Laws.RoundTrip.and (rd : Sys2Proof.RegIdx) (rs1 : Sys2Proof.RegIdx) (rs2 : Sys2Proof.RegIdx) :
    Sys2Proof.Laws.RoundTrip.Statement (.and rd rs1 rs2) := by
  intro _
  show Sys2Proof.decodeWord (Sys2Proof.encodeR 0b0000000#7 rs2 rs1 0b111#3 rd 0x33#7) = _
  refine (Sys2Proof.decodeWord_opBase (Sys2Proof.fieldOpcode_encodeR ..) (Sys2Proof.fieldFunct7_encodeR ..)).trans ?_
  delta Sys2Proof.decodeOpBase
  simp

theorem Sys2Proof.Laws.RoundTrip.mul (rd : Sys2Proof.RegIdx) (rs1 : Sys2Proof.RegIdx) (rs2 : Sys2Proof.RegIdx) :
    Sys2Proof.Laws.RoundTrip.Statement (.mul rd rs1 rs2) := by
  intro _
  show Sys2Proof.decodeWord (Sys2Proof.encodeR 0b0000001#7 rs2 rs1 0b000#3 rd 0x33#7) = _
  refine (Sys2Proof.decodeWord_opMulDiv (Sys2Proof.fieldOpcode_encodeR ..) (Sys2Proof.fieldFunct7_encodeR ..)).trans ?_
  delta Sys2Proof.decodeOpMulDiv
  simp

theorem Sys2Proof.Laws.RoundTrip.mulh (rd : Sys2Proof.RegIdx) (rs1 : Sys2Proof.RegIdx) (rs2 : Sys2Proof.RegIdx) :
    Sys2Proof.Laws.RoundTrip.Statement (.mulh rd rs1 rs2) := by
  intro _
  show Sys2Proof.decodeWord (Sys2Proof.encodeR 0b0000001#7 rs2 rs1 0b001#3 rd 0x33#7) = _
  refine (Sys2Proof.decodeWord_opMulDiv (Sys2Proof.fieldOpcode_encodeR ..) (Sys2Proof.fieldFunct7_encodeR ..)).trans ?_
  delta Sys2Proof.decodeOpMulDiv
  simp

theorem Sys2Proof.Laws.RoundTrip.mulhsu (rd : Sys2Proof.RegIdx) (rs1 : Sys2Proof.RegIdx) (rs2 : Sys2Proof.RegIdx) :
    Sys2Proof.Laws.RoundTrip.Statement (.mulhsu rd rs1 rs2) := by
  intro _
  show Sys2Proof.decodeWord (Sys2Proof.encodeR 0b0000001#7 rs2 rs1 0b010#3 rd 0x33#7) = _
  refine (Sys2Proof.decodeWord_opMulDiv (Sys2Proof.fieldOpcode_encodeR ..) (Sys2Proof.fieldFunct7_encodeR ..)).trans ?_
  delta Sys2Proof.decodeOpMulDiv
  simp

theorem Sys2Proof.Laws.RoundTrip.mulhu (rd : Sys2Proof.RegIdx) (rs1 : Sys2Proof.RegIdx) (rs2 : Sys2Proof.RegIdx) :
    Sys2Proof.Laws.RoundTrip.Statement (.mulhu rd rs1 rs2) := by
  intro _
  show Sys2Proof.decodeWord (Sys2Proof.encodeR 0b0000001#7 rs2 rs1 0b011#3 rd 0x33#7) = _
  refine (Sys2Proof.decodeWord_opMulDiv (Sys2Proof.fieldOpcode_encodeR ..) (Sys2Proof.fieldFunct7_encodeR ..)).trans ?_
  delta Sys2Proof.decodeOpMulDiv
  simp

theorem Sys2Proof.Laws.RoundTrip.div (rd : Sys2Proof.RegIdx) (rs1 : Sys2Proof.RegIdx) (rs2 : Sys2Proof.RegIdx) :
    Sys2Proof.Laws.RoundTrip.Statement (.div rd rs1 rs2) := by
  intro _
  show Sys2Proof.decodeWord (Sys2Proof.encodeR 0b0000001#7 rs2 rs1 0b100#3 rd 0x33#7) = _
  refine (Sys2Proof.decodeWord_opMulDiv (Sys2Proof.fieldOpcode_encodeR ..) (Sys2Proof.fieldFunct7_encodeR ..)).trans ?_
  delta Sys2Proof.decodeOpMulDiv
  simp

theorem Sys2Proof.Laws.RoundTrip.divu (rd : Sys2Proof.RegIdx) (rs1 : Sys2Proof.RegIdx) (rs2 : Sys2Proof.RegIdx) :
    Sys2Proof.Laws.RoundTrip.Statement (.divu rd rs1 rs2) := by
  intro _
  show Sys2Proof.decodeWord (Sys2Proof.encodeR 0b0000001#7 rs2 rs1 0b101#3 rd 0x33#7) = _
  refine (Sys2Proof.decodeWord_opMulDiv (Sys2Proof.fieldOpcode_encodeR ..) (Sys2Proof.fieldFunct7_encodeR ..)).trans ?_
  delta Sys2Proof.decodeOpMulDiv
  simp

theorem Sys2Proof.Laws.RoundTrip.rem (rd : Sys2Proof.RegIdx) (rs1 : Sys2Proof.RegIdx) (rs2 : Sys2Proof.RegIdx) :
    Sys2Proof.Laws.RoundTrip.Statement (.rem rd rs1 rs2) := by
  intro _
  show Sys2Proof.decodeWord (Sys2Proof.encodeR 0b0000001#7 rs2 rs1 0b110#3 rd 0x33#7) = _
  refine (Sys2Proof.decodeWord_opMulDiv (Sys2Proof.fieldOpcode_encodeR ..) (Sys2Proof.fieldFunct7_encodeR ..)).trans ?_
  delta Sys2Proof.decodeOpMulDiv
  simp

theorem Sys2Proof.Laws.RoundTrip.remu (rd : Sys2Proof.RegIdx) (rs1 : Sys2Proof.RegIdx) (rs2 : Sys2Proof.RegIdx) :
    Sys2Proof.Laws.RoundTrip.Statement (.remu rd rs1 rs2) := by
  intro _
  show Sys2Proof.decodeWord (Sys2Proof.encodeR 0b0000001#7 rs2 rs1 0b111#3 rd 0x33#7) = _
  refine (Sys2Proof.decodeWord_opMulDiv (Sys2Proof.fieldOpcode_encodeR ..) (Sys2Proof.fieldFunct7_encodeR ..)).trans ?_
  delta Sys2Proof.decodeOpMulDiv
  simp

theorem Sys2Proof.Laws.RoundTrip.ecall :
    Sys2Proof.Laws.RoundTrip.Statement .ecall := by
  intro _; decide

theorem Sys2Proof.Laws.RoundTrip.ebreak :
    Sys2Proof.Laws.RoundTrip.Statement .ebreak := by
  intro _; decide
end

