-- ==== Sys2Proof/Tests/Slice0.lean ====
section
/-! SUPPORT. Tests: ill-formed instructions refused, one decoded word for each instruction, one step for each
instruction on the values of spec/95_test_vectors.md (each test names its vector or the rule whose example
it is), and for each obligation with hypotheses a concrete state and operands that meet them. -/

namespace Sys2Proof.Machine.Tests

-- The tests are many and small: elaborated one after another they need no thread each.
set_option Elab.async false

/-! ## WellFormed refuses an odd offset (30_encoding.md R75, R77) -/

theorem test_wf_refuses_jal : (Instr.jal 1 3).wf = false := by decide
theorem test_wf_refuses_beq : (Instr.beq 1 2 1).wf = false := by decide
theorem test_wf_refuses_bne : (Instr.bne 1 2 1).wf = false := by decide
theorem test_wf_refuses_blt : (Instr.blt 1 2 1).wf = false := by decide
theorem test_wf_refuses_bge : (Instr.bge 1 2 1).wf = false := by decide
theorem test_wf_refuses_bltu : (Instr.bltu 1 2 1).wf = false := by decide
theorem test_wf_refuses_bgeu : (Instr.bgeu 1 2 1).wf = false := by decide
theorem test_wf_accepts_even : (Instr.jal 1 (-2)).wf = true ∧ (Instr.beq 1 2 4094).wf = true := by decide

/-! ## Decoding, words written out from the encoding

One word of each family is written field by field, bit 31 first, from 30_encoding.md Table 30-2 and Table
30-4; the others are the words of the rules' examples. -/

/-- LUI x1, 0x12345 (R100): imm[31:12], rd, opcode. -/
theorem test_decode_lui_bits :
    decodeWord (0b00010010001101000101#20 ++ 0b00001#5 ++ 0b0110111#7) = .ok (.lui 1 0x12345) := by decide

/-- JAL x1, 2048 (V30-18): imm[20], imm[10:1], imm[11], imm[19:12], rd, opcode. -/
theorem test_decode_jal_bits :
    decodeWord (0b0#1 ++ 0b0000000000#10 ++ 0b1#1 ++ 0b00000000#8 ++ 0b00001#5 ++ 0b1101111#7) =
      .ok (.jal 1 2048) := by decide

/-- BEQ x1, x2, 2048 (V30-12): imm[12], imm[10:5], rs2, rs1, funct3, imm[4:1], imm[11], opcode. -/
theorem test_decode_beq_bits :
    decodeWord (0b0#1 ++ 0b000000#6 ++ 0b00010#5 ++ 0b00001#5 ++ 0b000#3 ++ 0b0000#4 ++ 0b1#1 ++
      0b1100011#7) = .ok (.beq 1 2 2048) := by decide

/-- LW x3, -4(x2) (V43-6): imm[11:0], rs1, funct3, rd, opcode. -/
theorem test_decode_lw_bits :
    decodeWord (0b111111111100#12 ++ 0b00010#5 ++ 0b010#3 ++ 0b00011#5 ++ 0b0000011#7) =
      .ok (.lw 3 2 (-4)) := by decide

/-- SW x3, 33(x2) (V30-8): imm[11:5], rs2, rs1, funct3, imm[4:0], opcode. -/
theorem test_decode_sw_bits :
    decodeWord (0b0000001#7 ++ 0b00011#5 ++ 0b00010#5 ++ 0b010#3 ++ 0b00001#5 ++ 0b0100011#7) =
      .ok (.sw 3 2 33) := by decide

/-- SRAI x3, x1, 4 (V44-20): funct7, shamt, rs1, funct3, rd, opcode. -/
theorem test_decode_srai_bits :
    decodeWord (0b0100000#7 ++ 0b00100#5 ++ 0b00001#5 ++ 0b101#3 ++ 0b00011#5 ++ 0b0010011#7) =
      .ok (.srai 3 1 4) := by decide

/-- SUB x3, x1, x2 (R171): funct7, rs2, rs1, funct3, rd, opcode. -/
theorem test_decode_sub_bits :
    decodeWord (0b0100000#7 ++ 0b00010#5 ++ 0b00001#5 ++ 0b000#3 ++ 0b00011#5 ++ 0b0110011#7) =
      .ok (.sub 3 1 2) := by decide

/-- REM x3, x1, x2 (R196): funct7, rs2, rs1, funct3, rd, opcode. -/
theorem test_decode_rem_bits :
    decodeWord (0b0000001#7 ++ 0b00010#5 ++ 0b00001#5 ++ 0b110#3 ++ 0b00011#5 ++ 0b0110011#7) =
      .ok (.rem 3 1 2) := by decide

/-- EBREAK (R211), the whole word. -/
theorem test_decode_ebreak_bits :
    decodeWord (0b000000000001#12 ++ 0b00000#5 ++ 0b000#3 ++ 0b00000#5 ++ 0b1110011#7) = .ok .ebreak := by
  decide

theorem test_decode_lui : decodeWord 0x123450B7 = .ok (.lui 1 0x12345) := by decide
theorem test_decode_auipc : decodeWord 0x00001297 = .ok (.auipc 5 1) := by decide
theorem test_decode_jal : decodeWord 0xFFDFF06F = .ok (.jal 0 (-4)) := by decide
theorem test_decode_jalr : decodeWord 0x003280E7 = .ok (.jalr 1 5 3) := by decide
theorem test_decode_beq : decodeWord 0x00208863 = .ok (.beq 1 2 16) := by decide
theorem test_decode_bne : decodeWord 0xFE209EE3 = .ok (.bne 1 2 (-4)) := by decide
theorem test_decode_blt : decodeWord 0x0020C463 = .ok (.blt 1 2 8) := by decide
theorem test_decode_bge : decodeWord 0x0020D463 = .ok (.bge 1 2 8) := by decide
theorem test_decode_bltu : decodeWord 0x0020E463 = .ok (.bltu 1 2 8) := by decide
theorem test_decode_bgeu : decodeWord 0x0020F463 = .ok (.bgeu 1 2 8) := by decide
theorem test_decode_lb : decodeWord 0x00028183 = .ok (.lb 3 5 0) := by decide
theorem test_decode_lh : decodeWord 0x00029183 = .ok (.lh 3 5 0) := by decide
theorem test_decode_lw : decodeWord 0x0002A183 = .ok (.lw 3 5 0) := by decide
theorem test_decode_lbu : decodeWord 0x0002C183 = .ok (.lbu 3 5 0) := by decide
theorem test_decode_lhu : decodeWord 0x0002D183 = .ok (.lhu 3 5 0) := by decide
theorem test_decode_sb : decodeWord 0x006280A3 = .ok (.sb 6 5 1) := by decide
theorem test_decode_sh : decodeWord 0x00629123 = .ok (.sh 6 5 2) := by decide
theorem test_decode_sw : decodeWord 0x0062A223 = .ok (.sw 6 5 4) := by decide
theorem test_decode_addi : decodeWord 0xFF908193 = .ok (.addi 3 1 (-7)) := by decide
theorem test_decode_slti : decodeWord 0xFFF0A193 = .ok (.slti 3 1 (-1)) := by decide
theorem test_decode_sltiu : decodeWord 0x0010B193 = .ok (.sltiu 3 1 1) := by decide
theorem test_decode_xori : decodeWord 0xFFF0C193 = .ok (.xori 3 1 (-1)) := by decide
theorem test_decode_ori : decodeWord 0x0F00E193 = .ok (.ori 3 1 0x0F0) := by decide
theorem test_decode_andi : decodeWord 0xF000F193 = .ok (.andi 3 1 (-256)) := by decide
theorem test_decode_slli : decodeWord 0x01F09193 = .ok (.slli 3 1 31) := by decide
theorem test_decode_srli : decodeWord 0x01F0D193 = .ok (.srli 3 1 31) := by decide
theorem test_decode_srai : decodeWord 0x41F0D193 = .ok (.srai 3 1 31) := by decide
theorem test_decode_add : decodeWord 0x002081B3 = .ok (.add 3 1 2) := by decide
theorem test_decode_sub : decodeWord 0x402081B3 = .ok (.sub 3 1 2) := by decide
theorem test_decode_sll : decodeWord 0x002091B3 = .ok (.sll 3 1 2) := by decide
theorem test_decode_slt : decodeWord 0x0020A1B3 = .ok (.slt 3 1 2) := by decide
theorem test_decode_sltu : decodeWord 0x0020B1B3 = .ok (.sltu 3 1 2) := by decide
theorem test_decode_xor : decodeWord 0x0020C1B3 = .ok (.xor 3 1 2) := by decide
theorem test_decode_srl : decodeWord 0x0020D1B3 = .ok (.srl 3 1 2) := by decide
theorem test_decode_sra : decodeWord 0x4020D1B3 = .ok (.sra 3 1 2) := by decide
theorem test_decode_or : decodeWord 0x0020E1B3 = .ok (.or 3 1 2) := by decide
theorem test_decode_and : decodeWord 0x0020F1B3 = .ok (.and 3 1 2) := by decide
theorem test_decode_mul : decodeWord 0x022081B3 = .ok (.mul 3 1 2) := by decide
theorem test_decode_mulh : decodeWord 0x022091B3 = .ok (.mulh 3 1 2) := by decide
theorem test_decode_mulhsu : decodeWord 0x0220A1B3 = .ok (.mulhsu 3 1 2) := by decide
theorem test_decode_mulhu : decodeWord 0x0220B1B3 = .ok (.mulhu 3 1 2) := by decide
theorem test_decode_div : decodeWord 0x0220C1B3 = .ok (.div 3 1 2) := by decide
theorem test_decode_divu : decodeWord 0x0220D1B3 = .ok (.divu 3 1 2) := by decide
theorem test_decode_rem : decodeWord 0x0220E1B3 = .ok (.rem 3 1 2) := by decide
theorem test_decode_remu : decodeWord 0x0220F1B3 = .ok (.remu 3 1 2) := by decide
theorem test_decode_ecall : decodeWord 0x00000073 = .ok .ecall := by decide
theorem test_decode_ebreak : decodeWord 0x00100073 = .ok .ebreak := by decide

/-- The table's words, as the host numbers them. -/
theorem test_decodeTableWord :
    decodeTableWord 32 0x00000037 = some (.lui 0 0) ∧ decodeTableWord 32 0x40005013 = some (.srai 0 0 0) ∧
      decodeTableWord 32 0x00100073 = some .ebreak ∧ decodeTableWord 32 0 = none := by decide

/-! ## One step of each instruction

The start states have pc = 0x8000_0100 (spec/95_test_vectors.md section 2) and the named registers; a test
looks at one register and pc, at two bytes of RAM, at the output, or at the stop status. -/

/-- A running core at 0x8000_0100 with registers set. -/
def start (regs : List (RegIdx × Word)) : State :=
  regs.foldl (fun s p => s.writeReg p.1 p.2) { State.reset with pc := 0x80000100 }

/-- What is read of the state after one step of a core whose next word is w. -/
def look {α : Type} (s : State) (w : Nat) (f : State → α) : Option α :=
  match step (s.withFetchWord 32 w) with
  | .next t => some (f t)
  | .fault _ => none
  | .refused _ => none

/-- Register r and pc. -/
def regPc (r : RegIdx) (t : State) : Word × Word := (t.readReg r, t.pc)

/-- The written value of two bytes of RAM. -/
def bytesAt (a b : Nat) (t : State) : Option Byte × Option Byte := (t.ram.lookup a, t.ram.lookup b)

/-- The stop status and pc. -/
def stopPc (t : State) : Bool × StopStatus × Word := (t.halted, t.stop, t.pc)

/-- V41-2. -/
theorem test_step_lui :
    look (start []) 0xFFFFF0B7 (regPc 1) = some (0xFFFFF000, 0x80000104) := by
  decide

/-- V41-5. -/
theorem test_step_auipc :
    look (start []) 0xFFFFF117 (regPc 2) = some (0x7FFFF100, 0x80000104) := by
  decide

/-- V42-3. -/
theorem test_step_jal :
    look (start []) 0xF01FF2EF (regPc 5) = some (0x80000104, 0x80000000) := by
  decide

/-- V42-8, rd = rs1. -/
theorem test_step_jalr :
    look (start [(1, 0x80000200)]) 0x004080E7 (regPc 1) = some (0x80000104, 0x80000204) := by
  decide

/-- V42-9. -/
theorem test_step_jalr_clears_bit_0 :
    look (start [(2, 0x80000300)]) 0xFFF10067 (regPc 0) = some (0, 0x800002FE) := by
  decide

/-- V42-12. -/
theorem test_step_beq :
    look (start [(1, 7), (2, 7)]) 0x00208863 (regPc 1) = some (7, 0x80000110) := by
  decide

/-- V42-14. -/
theorem test_step_bne :
    look (start [(1, 7), (2, 8)]) 0xFE209CE3 (regPc 1) = some (7, 0x800000F8) := by
  decide

/-- V42-16. -/
theorem test_step_blt :
    look (start [(1, 0xFFFFFFFF), (2, 1)]) 0x0020C463 (regPc 2) = some (1, 0x80000108) := by
  decide

/-- V42-19. -/
theorem test_step_bge :
    look (start [(1, 0x80000000), (2, 0x7FFFFFFF)]) 0x0020D463 (regPc 1) = some (0x80000000, 0x80000104) := by
  decide

/-- V42-18. -/
theorem test_step_bge_equal :
    look (start [(1, 5), (2, 5)]) 0x0020D463 (regPc 1) = some (5, 0x80000108) := by
  decide

/-- V42-21. -/
theorem test_step_bltu :
    look (start [(1, 0xFFFFFFFF), (2, 1)]) 0x0020E463 (regPc 2) = some (1, 0x80000104) := by
  decide

/-- V42-22. -/
theorem test_step_bgeu :
    look (start [(1, 0xFFFFFFFF), (2, 1)]) 0x0020F463 (regPc 2) = some (1, 0x80000108) := by
  decide

/-- V43-1. -/
theorem test_step_lb :
    look ((start [(2, 0x80010000)]).storeRam 0x80010000 0x80 .byte) 0x00010183 (regPc 3) =
      some (0xFFFFFF80, 0x80000104) := by decide

/-- V43-4. -/
theorem test_step_lh :
    look ((start [(2, 0x80010000)]).storeRam 0x80010000 0x80010000 .word) 0x00211183 (regPc 3) =
      some (0xFFFF8001, 0x80000104) := by decide

/-- V43-7, rd = rs1. -/
theorem test_step_lw :
    look ((start [(2, 0x80010000)]).storeRam 0x80010000 0x12345678 .word) 0x00012103 (regPc 2) =
      some (0x12345678, 0x80000104) := by decide

/-- V43-2. -/
theorem test_step_lbu :
    look ((start [(2, 0x80010000)]).storeRam 0x80010000 0x80 .byte) 0x00014183 (regPc 3) =
      some (0x80, 0x80000104) := by decide

/-- V43-5. -/
theorem test_step_lhu :
    look ((start [(2, 0x80010000)]).storeRam 0x80010000 0x80010000 .word) 0x00215183 (regPc 3) =
      some (0x8001, 0x80000104) := by decide

/-- V43-18, a device word reads 0; V43-10, a misaligned load; V43-14, unmapped before misaligned. -/
theorem test_load_device_and_stops :
    look (start [(2, 0x10000000), (3, 0x5555)]) 0x00012183 (regPc 3) = some (0, 0x80000104) ∧
    look (start [(2, 0x80010000), (3, 0x5555)]) 0x00111183 stopPc =
      some (true, ⟨.loadMisaligned, 0x80010001, 2, .read, 0x80000100, 0⟩, 0x80000100) ∧
    look (start []) 0x00102183 stopPc =
      some (true, ⟨.fatalMem, 1, 4, .read, 0x80000100, 0⟩, 0x80000100) := by decide

/-- V43-22, and the byte above is not written. -/
theorem test_step_sb :
    look (start [(2, 0x80010000), (3, 0x12345678)]) 0x00310023 (bytesAt 0x80010000 0x80010001) =
      some (some 0x78, none) := by decide

/-- V43-23. -/
theorem test_step_sh :
    look (start [(2, 0x80010000), (3, 0x12345678)]) 0x00311123 (bytesAt 0x80010002 0x80010003) =
      some (some 0x78, some 0x56) := by decide

/-- V43-24, the first and the last byte. -/
theorem test_step_sw :
    look (start [(2, 0x80010000), (3, 0x12345678)]) 0x00312023 (bytesAt 0x80010000 0x80010003) =
      some (some 0x78, some 0x12) := by decide

/-- V43-30, V43-31 and V43-29, the device words; V43-26, a misaligned store; V43-32, a byte of the window that
is no device word. -/
theorem test_store_device_and_stops :
    look (start [(2, 0x10000000), (3, 0x1FF)]) 0x00310223 State.output =
      some [⟨.dec, .byte, 0xFF⟩] ∧
    look (start [(2, 0x10000000), (3, 0xFFFFBEEF)]) 0x00311423 State.output =
      some [⟨.hex, .half, 0xBEEF⟩] ∧
    look (start [(2, 0x10000000), (3, 0x41)]) 0x00312023 State.output =
      some [⟨.char, .word, 0x41⟩] ∧
    look (start [(2, 0x80010000), (3, 0x1234)]) 0x003110A3 stopPc =
      some (true, ⟨.fatalMem, 0x80010001, 2, .write, 0x80000100, 0⟩, 0x80000100) ∧
    look (start [(2, 0x10000000), (3, 0x41)]) 0x003100A3 stopPc =
      some (true, ⟨.fatalMem, 0x10000001, 1, .write, 0x80000100, 0⟩, 0x80000100) := by decide

/-- V44-2. -/
theorem test_step_addi :
    look (start [(1, 0x7FFFFFFF)]) 0x00108093 (regPc 1) = some (0x80000000, 0x80000104) := by
  decide

/-- V44-7. -/
theorem test_step_slti :
    look (start [(1, 0xFFFFFFFF)]) 0x0000A193 (regPc 3) = some (1, 0x80000104) := by
  decide

/-- V44-9. -/
theorem test_step_sltiu :
    look (start [(1, 5)]) 0xFFF0B193 (regPc 3) = some (1, 0x80000104) := by
  decide

/-- V44-12. -/
theorem test_step_xori :
    look (start [(1, 0x12345678)]) 0x7FF0C193 (regPc 3) = some (0x12345187, 0x80000104) := by
  decide

/-- V44-13. -/
theorem test_step_ori :
    look (start [(1, 5)]) 0xFF00E193 (regPc 3) = some (0xFFFFFFF5, 0x80000104) := by
  decide

/-- V44-15. -/
theorem test_step_andi :
    look (start [(1, 0xFFFFFFFF)]) 0x8000F193 (regPc 3) = some (0xFFFFF800, 0x80000104) := by
  decide

/-- V44-16. -/
theorem test_step_slli :
    look (start [(1, 3)]) 0x01F09193 (regPc 3) = some (0x80000000, 0x80000104) := by
  decide

/-- V44-18. -/
theorem test_step_srli :
    look (start [(1, 0x80000000)]) 0x0040D193 (regPc 3) = some (0x08000000, 0x80000104) := by
  decide

/-- V44-20. -/
theorem test_step_srai :
    look (start [(1, 0x80000000)]) 0x4040D193 (regPc 3) = some (0xF8000000, 0x80000104) := by
  decide

/-- V45-1. -/
theorem test_step_add :
    look (start [(1, 0xFFFFFFFF), (2, 1)]) 0x002081B3 (regPc 3) = some (0, 0x80000104) := by
  decide

/-- V45-17, x0 stays 0. -/
theorem test_step_add_x0 :
    look (start [(1, 1), (2, 2)]) 0x00208033 (regPc 0) = some (0, 0x80000104) := by
  decide

/-- V45-4. -/
theorem test_step_sub :
    look (start [(1, 0x80000000), (2, 1)]) 0x402081B3 (regPc 3) = some (0x7FFFFFFF, 0x80000104) := by
  decide

/-- V45-5. -/
theorem test_step_sll :
    look (start [(1, 1), (2, 0x21)]) 0x002091B3 (regPc 3) = some (2, 0x80000104) := by
  decide

/-- V45-8. -/
theorem test_step_slt :
    look (start [(1, 0x80000000), (2, 0x7FFFFFFF)]) 0x0020A1B3 (regPc 3) = some (1, 0x80000104) := by
  decide

/-- V45-9. -/
theorem test_step_sltu :
    look (start [(1, 0xFFFFFFFF), (2, 1)]) 0x0020B1B3 (regPc 3) = some (0, 0x80000104) := by
  decide

/-- R175, its example. -/
theorem test_step_xor :
    look (start [(1, 0xFF00FF00), (2, 0x0FF00FF0)]) 0x0020C1B3 (regPc 3) = some (0xF0F0F0F0, 0x80000104) := by
  decide

/-- V45-12. -/
theorem test_step_srl :
    look (start [(1, 0x80000000), (2, 0xFFFFFFE4)]) 0x0020D1B3 (regPc 3) = some (0x08000000, 0x80000104) := by
  decide

/-- V45-13. -/
theorem test_step_sra :
    look (start [(1, 0x80000000), (2, 4)]) 0x4020D1B3 (regPc 3) = some (0xF8000000, 0x80000104) := by
  decide

/-- R178, its example. -/
theorem test_step_or :
    look (start [(1, 0xFF00FF00), (2, 0x0FF00FF0)]) 0x0020E1B3 (regPc 3) = some (0xFFF0FFF0, 0x80000104) := by
  decide

/-- V45-16. -/
theorem test_step_and :
    look (start [(1, 0xF0F0F0F0), (2, 0xFF00FF00)]) 0x0020F1B3 (regPc 3) = some (0xF000F000, 0x80000104) := by
  decide

/-- V46-3. -/
theorem test_step_mul :
    look (start [(1, 0x12345678), (2, 0x9ABCDEF0)]) 0x022081B3 (regPc 3) = some (0x242D2080, 0x80000104) := by
  decide

/-- V46-5. -/
theorem test_step_mulh :
    look (start [(1, 0xFFFFFFF9), (2, 3)]) 0x022091B3 (regPc 3) = some (0xFFFFFFFF, 0x80000104) := by
  decide

/-- V46-9. -/
theorem test_step_mulhsu :
    look (start [(1, 7), (2, 0xFFFFFFFD)]) 0x0220A1B3 (regPc 3) = some (6, 0x80000104) := by
  decide

/-- V46-10. -/
theorem test_step_mulhu :
    look (start [(1, 0x80000000), (2, 0xFFFFFFFF)]) 0x0220B1B3 (regPc 3) = some (0x7FFFFFFF, 0x80000104) := by
  decide

/-- V46-12. -/
theorem test_step_div :
    look (start [(1, 0xFFFFFFF9), (2, 3)]) 0x0220C1B3 (regPc 3) = some (0xFFFFFFFE, 0x80000104) := by
  decide

/-- V46-17. -/
theorem test_step_div_overflow :
    look (start [(1, 0x80000000), (2, 0xFFFFFFFF)]) 0x0220C1B3 (regPc 3) = some (0x80000000, 0x80000104) := by
  decide

/-- V46-18. -/
theorem test_step_divu :
    look (start [(1, 0xFFFFFFF9), (2, 3)]) 0x0220D1B3 (regPc 3) = some (0x55555553, 0x80000104) := by
  decide

/-- V46-22. -/
theorem test_step_rem :
    look (start [(1, 7), (2, 0xFFFFFFFD)]) 0x0220E1B3 (regPc 3) = some (1, 0x80000104) := by
  decide

/-- V46-24. -/
theorem test_step_rem_by_zero :
    look (start [(1, 0x12345678), (2, 0)]) 0x0220E1B3 (regPc 3) = some (0x12345678, 0x80000104) := by
  decide

/-- V46-28. -/
theorem test_step_remu :
    look (start [(1, 0x80000000), (2, 0xFFFFFFFF)]) 0x0220F1B3 (regPc 3) = some (0x80000000, 0x80000104) := by
  decide

/-- V47-1. -/
theorem test_step_ecall :
    look (start [(10, 5)]) 0x00000073 (regPc 10) = some (0xFFFFFFFF, 0x80000104) := by
  decide

/-- V47-2. -/
theorem test_step_ebreak :
    look (start []) 0x00100073 stopPc =
      some (true, ⟨.haltEbreak, 0, 0, .none, 0x80000100, 0⟩, 0x80000104) := by decide

/-- V47-5, FENCE is illegal. -/
theorem test_stop_fence :
    look (start []) 0x0000000F stopPc =
      some (true, ⟨.decodeFault, 0, 0, .none, 0x80000100, 0x0000000F⟩, 0x80000100) := by decide

/-- V40-2, a misaligned fetch. -/
theorem test_stop_fetch_misaligned :
    step { State.reset with pc := 0x80000102 } =
      .next { State.reset with
        pc := 0x80000102, halted := true,
        stop := ⟨.fetchFault, 0x80000102, 4, .fetch, 0x80000102, 0⟩ } := rfl

/-- V40-3, a fetch in the device window. -/
theorem test_stop_fetch_window :
    step { State.reset with pc := 0x10000000 } =
      .next { State.reset with
        pc := 0x10000000, halted := true, stop := ⟨.decodeFault, 0, 0, .none, 0x10000000, 0⟩ } := rfl

/-- V40-4, the first address past RAM. -/
theorem test_stop_fetch_past_ram :
    step { State.reset with pc := 0x82000000 } =
      .next { State.reset with
        pc := 0x82000000, halted := true,
        stop := ⟨.fetchFault, 0x82000000, 4, .fetch, 0x82000000, 0⟩ } := rfl

/-- The codes of 60_exceptions.md Table 60-1. -/
theorem test_stop_codes :
    [StopCause.running, .haltEbreak, .loadMisaligned, .fatalMem, .fetchFault, .decodeFault].map
      StopCause.code = [0, 1, 2, 3, 4, 5] := by decide

/-! ## The obligations' hypotheses are met

Each theorem shows states and operands that meet the hypotheses of the obligation it names, one for each
clause and at the boundaries of its ranges. -/

/-- The reset state with the word w at pc. -/
def placed (w : Nat) : State := State.reset.withFetchWord 32 w

theorem test_witness_DecodeOfEncode :
    (Instr.jal 1 (-1048576)).wf = true ∧ (Instr.bgeu 31 31 4094).wf = true := by decide

theorem test_witness_EncodeOfDecode :
    decodeWord 0x7E208FE3 = .ok (.beq 1 2 4094) ∧ decodeWord 0x800000EF = .ok (.jal 1 (-1048576)) := by
  decide

theorem test_witness_DecodeAgreesWithOpcodeTable :
    decodeWord 0x80031FA3 = .ok (.sh 0 6 (-2017)) ∧
      (⟨"SH", 0x0000707F, 0x00001023⟩ : OpcodeRow) ∈ opcodeTable ∧
      0x80031FA3#32 &&& 0x0000707F = 0x00001023 := by decide

/-- A word for each disjunct, and a word for none. -/
theorem test_witness_IllegalWordsAreRefused :
    [0x0000000F, 0x00001067, 0x00002063, 0x00003003, 0x00003023, 0x20009193, 0x0200D193, 0x042081B3,
      0x402091B3, 0x00200073].map (fun w => (decodeWord w).isOk) = List.replicate 10 false ∧
      (decodeWord 0x00000013).isOk = true := by decide

theorem test_witness_BootLoadsTheImage :
    boot 0 [1] (Vector.replicate 31 0) 0 = none ∧
      ((boot 1 [1, 2, 3, 4] (Vector.replicate 31 7) 9).map fun s =>
        (s.ramByte 0x80000003, s.readReg 31, s.currentInstruction)) = some (4, 7, 9) := by decide

theorem test_witness_BootedStatesSatisfyInv :
    boot 1 [] (Vector.replicate 31 0) 0 = some (construct 1 [] (Vector.replicate 31 0) 0) ∧
      boot 0x20000000 [] (Vector.replicate 31 0) 0 =
        some (construct 0x20000000 [] (Vector.replicate 31 0) 0) := ⟨rfl, rfl⟩

theorem test_placed_inv : (placed 0x123450B7).Inv :=
  ⟨by constructor <;> decide, by constructor <;> decide, fun _ => rfl, fun h => by cases h⟩

theorem test_witness_StepKeepsInv :
    (placed 0x123450B7).Inv ∧
      step (placed 0x123450B7) =
        .next (((placed 0x123450B7).recordFetch 0x123450B7).commit 1 0x12345000 0x80000004) :=
  ⟨test_placed_inv, rfl⟩

/-- What the statement asks of a core at pc with ECALL there. -/
def ecallAt (pc : Word) : Bool × Option (Instr × List Byte) :=
  let s := State.withFetchWord { State.reset with pc := pc } 32 0x73
  (!s.halted && decide (0x80000000 ≤ s.pc.toNat) && decide (s.pc.toNat < 0x80000000 + s.ramSize) &&
      s.pc.toNat % 4 == 0,
    (decodeBytes [s.ramByte s.pc.toNat, s.ramByte (s.pc.toNat + 1), s.ramByte (s.pc.toNat + 2),
      s.ramByte (s.pc.toNat + 3)]).toOption)

/-- The first and the last word of RAM. -/
theorem test_witness_StepRunsTheDecodedInstruction :
    [0x80000000, 0x81FFFFFC].map ecallAt = List.replicate 2 (true, some (.ecall, [])) := by decide

theorem test_witness_HaltedCoreNeverChanges :
    ({ State.reset with halted := true } : State).halted = true := by decide

theorem test_witness_RunEndsAtTheHalt :
    (match run 1 (placed 0x00100073) with
      | .next t => t.halted
      | .fault _ => false
      | .refused _ => false) = true := by decide

/-- A running core about to fetch at pc. -/
def startAt (pc : Word) : State := { State.reset with pc := pc }

/-- The bounds of the three clauses of the fetch. -/
theorem test_witness_FetchRecordsOrStops :
    [0x80000000, 0x81FFFFFC].map (fun pc => ((startAt pc).withFetchWord 32 0x13).fetch) =
      List.replicate 2 (some 0x13) ∧
    [0x10000000, 0x1000000B].map (fun pc => (startAt pc).fetch) = List.replicate 2 (some 0) ∧
    [0x0FFFFFFF, 0x1000000C, 0x7FFFFFFC, 0x80000002, 0x82000000].map (fun pc => (startAt pc).fetch) =
      List.replicate 5 none := by decide

theorem test_witness_IllegalWordStopsTheCore :
    (placed 0).halted = false ∧ (placed 0).fetch = some 0 ∧
      decodeWord 0 = .error (.unknownOpcode 0) := by decide

theorem test_witness_ExecutedInstructionsAreAligned :
    (placed 0x73).halted = false ∧ (placed 0x73).stop.cause = .running ∧
      look State.reset 0x73 (fun t => t.stop.cause) = some .running := by decide

/-- A stop of each cause. -/
theorem test_witness_StopsAreExact :
    [0x00100073, 0x00202183, 0x0000A183, 0x00000000].map
      (fun w => look (start [(1, 0x80000002)]) w fun t => (t.halted, t.stop.cause)) =
        [some (true, .haltEbreak), some (true, .fatalMem), some (true, .loadMisaligned),
          some (true, .decodeFault)] ∧
      step { State.reset with pc := 0 } =
        .next { State.reset with pc := 0, halted := true, stop := ⟨.fetchFault, 0, 4, .fetch, 0, 0⟩ } :=
  ⟨by decide, rfl⟩

/-- A load and a store that raise, and a misaligned load. -/
theorem test_witness_RaisingInstructionsCommitNothing :
    State.reset.halted = false ∧
      exec (.lb 3 0 0) State.reset = .next (State.reset.takeStop ⟨.fatalMem, 0, 1, .read, 0x80000000, 0⟩) ∧
      exec (.sw 3 0 0) State.reset = .next (State.reset.takeStop ⟨.fatalMem, 0, 4, .write, 0x80000000, 0⟩) ∧
      exec (.lhu 3 1 0) (State.reset.writeReg 1 0x80000001) =
        .next ((State.reset.writeReg 1 0x80000001).takeStop
          ⟨.loadMisaligned, 0x80000001, 2, .read, 0x80000000, 0⟩) :=
  ⟨rfl, rfl, rfl, rfl⟩

theorem test_witness_StopCausesByInstruction :
    exec .ebreak State.reset =
      .next ((State.reset.commitPc 0x80000004).takeStop ⟨.haltEbreak, 0, 0, .none, 0x80000000, 0⟩) := rfl

theorem test_witness_StepEmitsAtMostOneEvent :
    look (start [(2, 0x10000000)]) 0x00012023 State.output = some [⟨.char, .word, 0⟩] := by decide

theorem test_witness_RegisterFileReadAndWrite : (31 : RegIdx) ≠ 0 := by decide

/-- The bounds of the four clauses of a bus read, at the reset state's RAM_SIZE. -/
theorem test_witness_BusReadDecodesTheAddress :
    [0x10000000, 0x10000002, 0x1000000B].map (State.reset.busRead · .word) = List.replicate 3 (.ok 0) ∧
    [0x0FFFFFFF, 0x1000000C, 0x7FFFFFFF, 0x82000000, 0xFFFFFFFF].map (State.reset.busRead · .byte) =
      List.replicate 5 .fatal ∧
    [0x80000001, 0x81FFFFFE, 0x81FFFFFF].map (State.reset.busRead · .word) =
      List.replicate 3 .misaligned ∧
    [0x80000000, 0x81FFFFFC].map (fun a => (State.reset.storeRam a.toNat 7 .word).busRead a .word) =
      List.replicate 2 (.ok 7) := by decide

theorem test_witness_RamRoundTrip :
    State.reset.busWrite 0x81FFFFFE .half 0xFFFF = some (State.reset.storeRam 0x81FFFFFE 0xFFFF .half) := by
  decide

theorem test_witness_MixedWidthViewOfAWord :
    0x80000000 ≤ (0x81FFFFFC#32).toNat ∧ (0x81FFFFFC#32).toNat < 0x80000000 + State.reset.ramSize ∧
      (0x81FFFFFC#32).toNat % 4 = 0 := by decide

theorem test_witness_DeviceWriteEmitsOnceAndReadsZero :
    (0x10000008#32, Channel.hex) ∈
      [(0x10000000#32, Channel.char), (0x10000004#32, .dec), (0x10000008#32, .hex)] := by decide

/-- The least and the greatest admissible RAM_SIZE. -/
theorem test_witness_RamEdgeReads :
    ({ State.reset with ramWords := 1 } : State).RamSizeAdmissible ∧
      ({ State.reset with ramWords := 0x20000000 } : State).RamSizeAdmissible := by
  constructor <;> constructor <;> decide

theorem test_witness_StoresAreSeenByTheFetch :
    0x80000000 ≤ (0x80000000#32).toNat ∧ (0x80000000#32).toNat < 0x80000000 + State.reset.ramSize ∧
      (0x80000000#32).toNat % 4 = 0 := by decide

theorem test_witness_JalLinksAndJumps :
    (-1048576 : BitVec 21).toNat % 2 = 0 ∧ (1048574 : BitVec 21).toNat % 2 = 0 := by decide

theorem test_witness_EqualityBranches :
    (-4096 : BitVec 13).toNat % 2 = 0 ∧ (4094 : BitVec 13).toNat % 2 = 0 := by decide

theorem test_witness_SignedBranches : (-2 : BitVec 13).toNat % 2 = 0 := by decide

theorem test_witness_UnsignedBranches : (2 : BitVec 13).toNat % 2 = 0 := by decide

/-- The load address x5 + imm with x5 = a: is it in the window, is it in RAM, its value modulo n. -/
def loadZone (imm : BitVec 12) (n : Nat) (a : Word) : Bool × Bool × Nat :=
  let s := start [(5, a)]
  (inDeviceWindow (s.loadAddress 5 imm), s.inRam (s.loadAddress 5 imm), (s.loadAddress 5 imm).toNat % n)

/-- The same of a store address: its device word, is it in RAM, its value modulo n. -/
def storeZone (imm : BitVec 12) (n : Nat) (a : Word) : Option Channel × Bool × Nat :=
  let s := start [(5, a)]
  (deviceChannel (s.storeAddress 5 imm), s.inRam (s.storeAddress 5 imm), (s.storeAddress 5 imm).toNat % n)

/-- Window, RAM and neither, at their bounds. -/
theorem test_witness_ByteLoads :
    [0x10000000, 0x1000000B].map (loadZone 0 1) = [(true, false, 0), (true, false, 0)] ∧
    [0x80000000, 0x81FFFFFF].map (loadZone 0 1) = [(false, true, 0), (false, true, 0)] ∧
    [0x0FFFFFFF, 0x1000000C, 0x7FFFFFFF, 0x82000000].map (loadZone 0 1) =
      List.replicate 4 (false, false, 0) := by decide

/-- Window, aligned RAM, misaligned RAM and neither, at their bounds; the address is x5 + 1. -/
theorem test_witness_HalfLoads :
    [0x0FFFFFFF, 0x1000000A].map (loadZone 1 2) = [(true, false, 0), (true, false, 1)] ∧
    [0x7FFFFFFF, 0x81FFFFFD].map (loadZone 1 2) = [(false, true, 0), (false, true, 0)] ∧
    [0x80000000, 0x81FFFFFE].map (loadZone 1 2) = [(false, true, 1), (false, true, 1)] ∧
    [0x0FFFFFFE, 0x1000000B, 0x7FFFFFFE, 0x81FFFFFF].map (loadZone 1 2) =
      [(false, false, 1), (false, false, 0), (false, false, 1), (false, false, 0)] := by decide

/-- The same for words; the address is x5 - 4. -/
theorem test_witness_WordLoad :
    [0x10000004, 0x1000000F].map (loadZone (-4) 4) = [(true, false, 0), (true, false, 3)] ∧
    [0x80000004, 0x82000000].map (loadZone (-4) 4) = [(false, true, 0), (false, true, 0)] ∧
    [0x80000005, 0x82000003].map (loadZone (-4) 4) = [(false, true, 1), (false, true, 3)] ∧
    [0x10000003, 0x10000010, 0x80000003, 0x82000004].map (loadZone (-4) 4) =
      [(false, false, 3), (false, false, 0), (false, false, 3), (false, false, 0)] := by decide

/-- The device words, RAM, and neither (a window byte among them). -/
theorem test_witness_ByteStore :
    [0x10000000, 0x10000004, 0x10000008].map (storeZone 0 1) =
      [(some .char, false, 0), (some .dec, false, 0), (some .hex, false, 0)] ∧
    [0x80000000, 0x81FFFFFF].map (storeZone 0 1) = [(none, true, 0), (none, true, 0)] ∧
    [0x10000001, 0x1000000B, 0x7FFFFFFF, 0x82000000].map (storeZone 0 1) =
      List.replicate 4 (none, false, 0) := by decide

/-- A device word, aligned RAM, misaligned RAM and neither; the address is x5 + 2. -/
theorem test_witness_HalfStore :
    [0x10000006].map (storeZone 2 2) = [(some .hex, false, 0)] ∧
    [0x7FFFFFFE, 0x81FFFFFC].map (storeZone 2 2) = [(none, true, 0), (none, true, 0)] ∧
    [0x7FFFFFFF, 0x81FFFFFD].map (storeZone 2 2) = [(none, true, 1), (none, true, 1)] ∧
    [0x10000008, 0x7FFFFFFC, 0x81FFFFFE].map (storeZone 2 2) = List.replicate 3 (none, false, 0) := by
  decide

/-- The same for words; the address is x5 + 4. -/
theorem test_witness_WordStore :
    [0x10000000].map (storeZone 4 4) = [(some .dec, false, 0)] ∧
    [0x7FFFFFFC, 0x81FFFFF8].map (storeZone 4 4) = [(none, true, 0), (none, true, 0)] ∧
    [0x7FFFFFFD, 0x81FFFFFB].map (storeZone 4 4) = [(none, true, 1), (none, true, 3)] ∧
    [0x10000005, 0x7FFFFFFB, 0x81FFFFFC].map (storeZone 4 4) =
      [(none, false, 1), (none, false, 3), (none, false, 0)] := by decide

/-- Two values of funct7 with inst[25] = 1. -/
theorem test_witness_LogicalShiftImmediate :
    (0b0000001#7).getLsbD 0 = true ∧ (0b1111111#7).getLsbD 0 = true := by decide

theorem test_witness_UnsignedDivision : (0#32).toNat = 0 ∧ (1#32).toNat ≠ 0 := by decide

/-- A zero divisor, the overflow, and neither. -/
theorem test_witness_SignedDivision :
    (0#32).toInt = 0 ∧ ((0x80000000#32).toInt = -2147483648 ∧ (0xFFFFFFFF#32).toInt = -1) ∧
      (1#32).toInt ≠ 0 ∧ (0x80000001#32).toInt ≠ -2147483648 := by decide

theorem test_witness_DivisionLaw : (0xFFFFFFFF#32) ≠ 0 := by decide

end Sys2Proof.Machine.Tests
end

section
/-! The register file (10_state.md R21, R22): where a nonzero register is stored, the frame of a register
write, and the obligation they settle. -/

namespace Sys2Proof.Machine

/-- x(k + 1) is entry k of the storage (R21). -/
theorem readReg_of_toNat_eq_succ (s : State) {i : RegIdx} {k : Fin 31} (h : i.toNat = k.val + 1) :
    s.readReg i = s.regs[k] := by
  have hi : i ≠ 0 := fun h0 => by simp [h0] at h
  simp only [State.readReg, dif_neg hi, h, Nat.add_sub_cancel, Fin.getElem_fin]

theorem readReg_ofNat_succ (s : State) (k : Fin 31) :
    s.readReg (BitVec.ofNat 5 (k.val + 1)) = s.regs[k] := by
  have hk : (BitVec.ofNat 5 (k.val + 1)).toNat = k.val + 1 := by
    rw [BitVec.toNat_ofNat, Nat.mod_eq_of_lt (by omega)]
  exact readReg_of_toNat_eq_succ s hk

theorem sameRam_writeReg (s : State) (i : RegIdx) (v : Word) : s.SameRam (s.writeReg i v) :=
  sameRam_of_fields (writeReg_ramWords s i v) (writeReg_ram s i v)

theorem sameControl_writeReg (s : State) (i : RegIdx) (v : Word) : s.SameControl (s.writeReg i v) :=
  ⟨writeReg_halted s i v, writeReg_stop s i v, writeReg_currentInstruction s i v⟩

/-- Settles O24: the read laws of x0 and of the stored registers, then the write law of each with its
frame. -/
theorem registerFileReadAndWrite : Obligations.RegisterFileReadAndWrite := by
  intro s
  refine ⟨readReg_zero s, readReg_ofNat_succ s, writeReg_zero s, fun i v hi => ?_⟩
  exact ⟨readReg_writeReg_same s hi v, fun r hr => readReg_writeReg_ne s hr v, sameRam_writeReg s i v,
    writeReg_pc s i v, writeReg_output s i v, sameControl_writeReg s i v⟩

end Sys2Proof.Machine
end

section
/-! Instructions that raise during execute (40_execution_cycle.md R94): the ways an instruction can halt a
running core, and the obligation they settle. -/

namespace Sys2Proof.Machine

/-- All the ways an instruction can halt a running core. -/
theorem halt_cases_of_exec {i : Instr} {s t : State} (hs : s.halted = false) (h : exec i s = .next t)
    (ht : t.halted = true) :
    (∃ a n, i.mnemonic ∈ wideLoadMnemonics ∧ t = s.takeStop (loadMisalignedStop a n s.pc)) ∨
    (∃ a n, i.mnemonic ∈ loadMnemonics ∧ t = s.takeStop (fatalMemStop .read a n s.pc)) ∨
    (∃ a n, i.mnemonic ∈ storeMnemonics ∧ t = s.takeStop (fatalMemStop .write a n s.pc)) ∨
    (i = .ebreak ∧ t = (s.commitPc (s.pc + 4)).takeStop (haltEbreakStop s.pc)) := by
  cases effect_of_exec h with
  | commit rd v n => simp [hs] at ht
  | commitPc n => simp [hs] at ht
  | storeRam a v n hi ha ha' => simp [hs] at ht
  | emit c n v hi => simp [hs] at ht
  | misaligned a n hi hr => exact .inl ⟨a, n, hi, rfl⟩
  | fatalRead a n hi hr => exact .inr (.inl ⟨a, n, hi, rfl⟩)
  | fatalWrite a n hi hw => exact .inr (.inr (.inl ⟨a, n, hi, rfl⟩))
  | ebreak hi => exact .inr (.inr (.inr ⟨hi, rfl⟩))

/-- The loads that can be misaligned are loads. -/
theorem mem_loadMnemonics_of_mem_wide {m : String} (h : m ∈ wideLoadMnemonics) : m ∈ loadMnemonics := by
  have sub : wideLoadMnemonics ⊆ loadMnemonics := by decide
  exact sub h

/-- Settles O19, by the ways an instruction can halt a running core: each but EBREAK is a stop of a load or
a store taken on the state before it. -/
theorem raisingInstructionsCommitNothing : Obligations.RaisingInstructionsCommitNothing := by
  intro i s t hs h ht hne
  rcases halt_cases_of_exec hs h ht with ⟨a, n, hi, rfl⟩ | ⟨a, n, hi, rfl⟩ | ⟨a, n, hi, rfl⟩ | ⟨hi, -⟩
  · exact ⟨stoppedWith_takeStop s _, .inl (mem_loadMnemonics_of_mem_wide hi), nofun, nofun⟩
  · exact ⟨stoppedWith_takeStop s _, .inl hi, nofun, nofun⟩
  · exact ⟨stoppedWith_takeStop s _, .inr hi, nofun, nofun⟩
  · exact absurd hi hne

end Sys2Proof.Machine
end


section
/-! The upper-immediate instructions (41_upper_immediate.md R100, R101): the value of imm_U as a number, the
next state of a completed instruction, and the two obligations they settle. -/

namespace Sys2Proof.Machine

/-- imm_U is its 20 bits times 2^12 (30_encoding.md R76). -/
theorem immU_eq_ofNat (imm : BitVec 20) : immU imm = BitVec.ofNat 32 (imm.toNat * 2 ^ 12) := by
  apply BitVec.eq_of_toNat_eq
  have himm : imm.toNat < 2 ^ 20 := imm.isLt
  rw [immU, BitVec.toNat_append, BitVec.toNat_ofNat, Nat.zero_mod, Nat.or_zero, Nat.shiftLeft_eq,
    BitVec.toNat_ofNat, Nat.mod_eq_of_lt (by omega)]

/-- The sum of AUIPC, computed on the numbers and then taken modulo 2^32. -/
theorem add_immU_eq_ofNat (a : Word) (imm : BitVec 20) :
    a + immU imm = BitVec.ofNat 32 (a.toNat + imm.toNat * 2 ^ 12) := by
  rw [immU_eq_ofNat, BitVec.ofNat_add, BitVec.ofNat_toNat, BitVec.setWidth_eq]

/-- An instruction whose meaning is to complete with v in rd has a next state that differs from s in rd and
pc alone. -/
theorem registerResult_of_exec_eq_completeWith {i : Instr} {s : State} {rd : RegIdx} {v : Word}
    (h : exec i s = s.completeWith rd v) :
    ∃ t, exec i s = .next t ∧ s.RegisterResult t rd v (s.pc + 4) :=
  ⟨_, h.trans (completeWith_eq s rd v), registerResult_commit s rd v (s.pc + 4)⟩

theorem exec_lui (rd : RegIdx) (imm : BitVec 20) (s : State) :
    exec (.lui rd imm) s = s.completeWith rd (immU imm) := rfl

theorem exec_auipc (rd : RegIdx) (imm : BitVec 20) (s : State) :
    exec (.auipc rd imm) s = s.completeWith rd (s.pc + immU imm) := rfl

/-- Settles O31: the round trip of the U-format word, and the completion of LUI with imm_U as a number. -/
theorem luiLoadsTheUpperImmediate : Obligations.LuiLoadsTheUpperImmediate := by
  intro rd imm s
  refine ⟨Laws.RoundTrip.lui rd imm rfl, registerResult_of_exec_eq_completeWith ?_⟩
  rw [exec_lui, immU_eq_ofNat]

/-- Settles O32: the round trip of the U-format word, and the completion of AUIPC with its sum as a
number. -/
theorem auipcAddsToItsOwnAddress : Obligations.AuipcAddsToItsOwnAddress := by
  intro rd imm s
  refine ⟨Laws.RoundTrip.auipc rd imm rfl, registerResult_of_exec_eq_completeWith ?_⟩
  rw [exec_auipc, add_immU_eq_ofNat]

end Sys2Proof.Machine
end

section
/-! The conditional branches (42_control_transfer.md R112 to R118): when an offset can be encoded, the target
and the conditions in the terms of the obligations, the next state of a branch, and the three obligations
they settle. -/

namespace Sys2Proof.Machine

/-- Bit 0 of an offset is clear when the offset is even (30_encoding.md R75). -/
theorem evenOffset_iff {w : Nat} (offset : BitVec w) :
    evenOffset offset = true ↔ offset.toNat % 2 = 0 := by
  simp only [evenOffset, BitVec.getLsbD, Nat.testBit_zero, Bool.not_eq_true', decide_eq_false_iff_not]
  omega

/-- The target is pc plus the signed offset (R112). -/
theorem branchTarget_eq (s : State) (offset : BitVec 13) :
    s.branchTarget offset = s.pc + BitVec.ofInt 32 offset.toInt := rfl

/-! ## The conditions as propositions -/

theorem condEq_iff (a b : Word) : condEq a b = true ↔ a = b := beq_iff_eq

theorem condNe_iff (a b : Word) : condNe a b = true ↔ a ≠ b := bne_iff_ne

theorem condLt_iff (a b : Word) : condLt a b = true ↔ a.toInt < b.toInt := decide_eq_true_iff

theorem condGe_iff (a b : Word) : condGe a b = true ↔ a.toInt ≥ b.toInt := by
  rw [condGe, ltSigned, Bool.not_eq_true', decide_eq_false_iff_not, not_lt]

theorem condLtu_iff (a b : Word) : condLtu a b = true ↔ a.toNat < b.toNat := decide_eq_true_iff

theorem condGeu_iff (a b : Word) : condGeu a b = true ↔ a.toNat ≥ b.toNat := by
  rw [condGeu, ltUnsigned, Bool.not_eq_true', decide_eq_false_iff_not, not_lt]

/-! ## The next state of a branch -/

/-- An instruction whose meaning is to branch on c, where c says p, has a next state that differs from s in
pc alone, and pc is the target just when p holds (R112). -/
theorem onlyPcResult_of_exec_eq_branchOn {i : Instr} {s : State} {c : Bool} {offset : BitVec 13} {p : Prop}
    [Decidable p] (hc : c = true ↔ p) (h : exec i s = s.branchOn c offset) :
    ∃ t, exec i s = .next t ∧
      s.OnlyPcResult t (if p then s.pc + BitVec.ofInt 32 offset.toInt else s.pc + 4) := by
  refine ⟨_, h.trans (branchOn_eq s c offset), ?_⟩
  simp only [hc, branchTarget_eq]
  exact onlyPcResult_commitPc s _

section
variable (rs1 rs2 : RegIdx) (offset : BitVec 13) (s : State)

theorem exec_beq : exec (.beq rs1 rs2 offset) s =
    s.branchOn (condEq (s.readReg rs1) (s.readReg rs2)) offset := rfl

theorem exec_bne : exec (.bne rs1 rs2 offset) s =
    s.branchOn (condNe (s.readReg rs1) (s.readReg rs2)) offset := rfl

theorem exec_blt : exec (.blt rs1 rs2 offset) s =
    s.branchOn (condLt (s.readReg rs1) (s.readReg rs2)) offset := rfl

theorem exec_bge : exec (.bge rs1 rs2 offset) s =
    s.branchOn (condGe (s.readReg rs1) (s.readReg rs2)) offset := rfl

theorem exec_bltu : exec (.bltu rs1 rs2 offset) s =
    s.branchOn (condLtu (s.readReg rs1) (s.readReg rs2)) offset := rfl

theorem exec_bgeu : exec (.bgeu rs1 rs2 offset) s =
    s.branchOn (condGeu (s.readReg rs1) (s.readReg rs2)) offset := rfl

end

/-- Settles O35: the round trips of the two B-format words, and the next states of BEQ and BNE. -/
theorem equalityBranches : Obligations.EqualityBranches := by
  intro rs1 rs2 offset s
  refine ⟨fun heven => ?_, ?_, ?_⟩
  · have hwf := (evenOffset_iff offset).mpr heven
    exact ⟨Laws.RoundTrip.beq rs1 rs2 offset hwf, Laws.RoundTrip.bne rs1 rs2 offset hwf⟩
  · exact onlyPcResult_of_exec_eq_branchOn (condEq_iff _ _) (exec_beq rs1 rs2 offset s)
  · exact onlyPcResult_of_exec_eq_branchOn (condNe_iff _ _) (exec_bne rs1 rs2 offset s)

/-- Settles O36: the round trips of the two B-format words, and the next states of BLT and BGE with their
signed conditions. -/
theorem signedBranches : Obligations.SignedBranches := by
  intro rs1 rs2 offset s
  refine ⟨fun heven => ?_, ?_, ?_⟩
  · have hwf := (evenOffset_iff offset).mpr heven
    exact ⟨Laws.RoundTrip.blt rs1 rs2 offset hwf, Laws.RoundTrip.bge rs1 rs2 offset hwf⟩
  · exact onlyPcResult_of_exec_eq_branchOn (condLt_iff _ _) (exec_blt rs1 rs2 offset s)
  · exact onlyPcResult_of_exec_eq_branchOn (condGe_iff _ _) (exec_bge rs1 rs2 offset s)

/-- Settles O37: the round trips of the two B-format words, and the next states of BLTU and BGEU with their
unsigned conditions. -/
theorem unsignedBranches : Obligations.UnsignedBranches := by
  intro rs1 rs2 offset s
  refine ⟨fun heven => ?_, ?_, ?_⟩
  · have hwf := (evenOffset_iff offset).mpr heven
    exact ⟨Laws.RoundTrip.bltu rs1 rs2 offset hwf, Laws.RoundTrip.bgeu rs1 rs2 offset hwf⟩
  · exact onlyPcResult_of_exec_eq_branchOn (condLtu_iff _ _) (exec_bltu rs1 rs2 offset s)
  · exact onlyPcResult_of_exec_eq_branchOn (condGeu_iff _ _) (exec_bgeu rs1 rs2 offset s)

end Sys2Proof.Machine
end

section
/-! The loads (43_load_store.md R131 to R136): the next state of a load in each region of the address space,
the value each extension gives to the bytes read, and the three obligations they settle. -/

namespace Sys2Proof.Machine

/-! ## The next state of a load, by where its address lies (R131) -/

section
variable {rd rs1 : RegIdx} {imm : BitVec 12} {s : State} {n : Width} {ext : Word → Word}

theorem load_of_busRead_ok {v : Word} (h : s.busRead (s.loadAddress rs1 imm) n = .ok v) :
    s.load n ext rd rs1 imm = .next (s.commit rd (ext v) (s.pc + 4)) := by
  simp only [State.load, h, completeWith_eq]

theorem load_of_busRead_misaligned (h : s.busRead (s.loadAddress rs1 imm) n = .misaligned) :
    s.load n ext rd rs1 imm =
      .next (s.takeStop (loadMisalignedStop (s.loadAddress rs1 imm) n s.pc)) := by
  simp only [State.load, h]

theorem load_of_busRead_fatal (h : s.busRead (s.loadAddress rs1 imm) n = .fatal) :
    s.load n ext rd rs1 imm =
      .next (s.takeStop (fatalMemStop .read (s.loadAddress rs1 imm) n s.pc)) := by
  simp only [State.load, h]

/-- The device window reads as 0 whatever the width and alignment. -/
theorem load_of_window (hz : ext 0 = 0)
    (h : 0x10000000 ≤ (s.loadAddress rs1 imm).toNat ∧ (s.loadAddress rs1 imm).toNat < 0x1000000C) :
    s.load n ext rd rs1 imm = .next (s.commit rd 0 (s.pc + 4)) := by
  rw [load_of_busRead_ok (busRead_window s n ((inDeviceWindow_iff _).mpr h)), hz]

/-- An aligned address in RAM reads the n bytes there; v is their extension. -/
theorem load_of_ram {v : Word} (hv : ext (s.readRam (s.loadAddress rs1 imm).toNat n) = v)
    (h : 0x80000000 ≤ (s.loadAddress rs1 imm).toNat ∧
      (s.loadAddress rs1 imm).toNat < 0x80000000 + s.ramSize)
    (haligned : (s.loadAddress rs1 imm).toNat % n.bytes = 0) :
    s.load n ext rd rs1 imm = .next (s.commit rd v (s.pc + 4)) := by
  rw [load_of_busRead_ok (busRead_ram s ((inRam_iff s _).mpr h) haligned), hv]

/-- A misaligned address in RAM stops the core. -/
theorem load_of_misaligned
    (h : 0x80000000 ≤ (s.loadAddress rs1 imm).toNat ∧
      (s.loadAddress rs1 imm).toNat < 0x80000000 + s.ramSize)
    (hmis : (s.loadAddress rs1 imm).toNat % n.bytes ≠ 0) :
    s.load n ext rd rs1 imm =
      .next (s.takeStop (loadMisalignedStop (s.loadAddress rs1 imm) n s.pc)) :=
  load_of_busRead_misaligned (busRead_misaligned s ((inRam_iff s _).mpr h) hmis)

/-- An address outside the device window and RAM is fatal, whatever its alignment. -/
theorem load_of_unmapped
    (hw : ¬ (0x10000000 ≤ (s.loadAddress rs1 imm).toNat ∧ (s.loadAddress rs1 imm).toNat < 0x1000000C))
    (hr : ¬ (0x80000000 ≤ (s.loadAddress rs1 imm).toNat ∧
      (s.loadAddress rs1 imm).toNat < 0x80000000 + s.ramSize)) :
    s.load n ext rd rs1 imm =
      .next (s.takeStop (fatalMemStop .read (s.loadAddress rs1 imm) n s.pc)) := by
  rw [← inDeviceWindow_iff, Bool.not_eq_true] at hw
  rw [← inRam_iff, Bool.not_eq_true] at hr
  exact load_of_busRead_fatal (busRead_unmapped s n hw hr)

end

/-! ## The extensions as numbers (00_scope.md R8, R9) -/

theorem sext_eq_ofInt {w : Nat} (f : BitVec w) : sext f = BitVec.ofInt 32 f.toInt := rfl

theorem zext_eq_ofNat {w : Nat} (f : BitVec w) : zext f = BitVec.ofNat 32 f.toNat :=
  (BitVec.ofNat_toNat 32 f).symm

section
variable (s : State) (a : Nat)

/-- The low 8 bits of a byte read are the byte. -/
theorem setWidth_readRam_byte : (s.readRam a .byte).setWidth 8 = s.ramByte a := by
  rw [State.readRam, BitVec.setWidth_setWidth_of_le _ (by decide), BitVec.setWidth_eq]

/-- The low 16 bits of a half-word read are its two bytes, little-endian (20_memory.md R44). -/
theorem setWidth_readRam_half :
    (s.readRam a .half).setWidth 16 = s.ramByte (a + 1) ++ s.ramByte a := by
  rw [State.readRam, BitVec.setWidth_setWidth_of_le _ (by decide), BitVec.setWidth_eq]

theorem extendByteSigned_readRam :
    extendByteSigned (s.readRam a .byte) = BitVec.ofInt 32 (s.ramByte a).toInt := by
  rw [extendByteSigned, setWidth_readRam_byte, sext_eq_ofInt]

theorem extendByteUnsigned_readRam :
    extendByteUnsigned (s.readRam a .byte) = BitVec.ofNat 32 (s.ramByte a).toNat := by
  rw [extendByteUnsigned, setWidth_readRam_byte, zext_eq_ofNat]

theorem extendHalfSigned_readRam :
    extendHalfSigned (s.readRam a .half) =
      BitVec.ofInt 32 (s.ramByte (a + 1) ++ s.ramByte a).toInt := by
  rw [extendHalfSigned, setWidth_readRam_half, sext_eq_ofInt]

theorem extendHalfUnsigned_readRam :
    extendHalfUnsigned (s.readRam a .half) =
      BitVec.ofNat 32 (s.ramByte (a + 1) ++ s.ramByte a).toNat := by
  rw [extendHalfUnsigned, setWidth_readRam_half, zext_eq_ofNat]

theorem extendWord_readRam :
    extendWord (s.readRam a .word) =
      s.ramByte (a + 3) ++ s.ramByte (a + 2) ++ s.ramByte (a + 1) ++ s.ramByte a := rfl

end

/-! ## The load instructions -/

section
variable (rd rs1 : RegIdx) (imm : BitVec 12) (s : State)

theorem exec_lb : exec (.lb rd rs1 imm) s = s.load .byte extendByteSigned rd rs1 imm := rfl

theorem exec_lh : exec (.lh rd rs1 imm) s = s.load .half extendHalfSigned rd rs1 imm := rfl

theorem exec_lw : exec (.lw rd rs1 imm) s = s.load .word extendWord rd rs1 imm := rfl

theorem exec_lbu : exec (.lbu rd rs1 imm) s = s.load .byte extendByteUnsigned rd rs1 imm := rfl

theorem exec_lhu : exec (.lhu rd rs1 imm) s = s.load .half extendHalfUnsigned rd rs1 imm := rfl

end

/-- Settles O39: the round trips of the two I-format words, and the load's next state in the window, in RAM
(where a byte is always aligned) and elsewhere. -/
theorem byteLoads : Obligations.ByteLoads := by
  intro rd rs1 imm s ea inWindow inRam fatal
  refine ⟨Laws.RoundTrip.lb rd rs1 imm rfl, Laws.RoundTrip.lbu rd rs1 imm rfl, ?_⟩
  rw [exec_lb, exec_lbu]
  refine ⟨fun hw => ?window, fun hr => ?ram, fun ⟨hw, hr⟩ => ?unmapped⟩
  case window =>
    exact ⟨_, _, load_of_window rfl hw, load_of_window rfl hw,
      registerResult_commit .., registerResult_commit ..⟩
  case ram =>
    have haligned : ea.toNat % Width.byte.bytes = 0 := Nat.mod_one _
    exact ⟨_, _, load_of_ram (extendByteSigned_readRam s _) hr haligned,
      load_of_ram (extendByteUnsigned_readRam s _) hr haligned,
      registerResult_commit .., registerResult_commit ..⟩
  case unmapped =>
    exact ⟨_, _, load_of_unmapped hw hr, load_of_unmapped hw hr,
      stoppedWith_takeStop .., stoppedWith_takeStop ..⟩

/-- Settles O40: the round trips of the two I-format words, and the load's next state in the window, in RAM
at even and at odd addresses, and elsewhere. -/
theorem halfLoads : Obligations.HalfLoads := by
  intro rd rs1 imm s ea inWindow inRam half misaligned fatal
  refine ⟨Laws.RoundTrip.lh rd rs1 imm rfl, Laws.RoundTrip.lhu rd rs1 imm rfl, ?_⟩
  rw [exec_lh, exec_lhu]
  refine ⟨fun hw => ?window, fun ⟨hr, heven⟩ => ?aligned, fun ⟨hr, hodd⟩ => ?misaligned,
    fun ⟨hw, hr⟩ => ?unmapped⟩
  case window =>
    exact ⟨_, _, load_of_window rfl hw, load_of_window rfl hw,
      registerResult_commit .., registerResult_commit ..⟩
  case aligned =>
    exact ⟨_, _, load_of_ram (extendHalfSigned_readRam s _) hr heven,
      load_of_ram (extendHalfUnsigned_readRam s _) hr heven,
      registerResult_commit .., registerResult_commit ..⟩
  case misaligned =>
    have hstop : misaligned (loadMisalignedStop ea .half s.pc) := ⟨rfl, rfl, rfl, rfl⟩
    exact ⟨_, _, load_of_misaligned hr hodd, load_of_misaligned hr hodd,
      stoppedWith_takeStop .., hstop, stoppedWith_takeStop .., hstop⟩
  case unmapped =>
    exact ⟨_, _, load_of_unmapped hw hr, load_of_unmapped hw hr,
      stoppedWith_takeStop .., stoppedWith_takeStop ..⟩

/-- Settles O41: the round trip of the I-format word, and the load's next state in the window, in RAM at
multiples of 4 and at other addresses, and elsewhere. -/
theorem wordLoad : Obligations.WordLoad := by
  intro rd rs1 imm s ea inWindow inRam
  refine ⟨Laws.RoundTrip.lw rd rs1 imm rfl, ?_⟩
  rw [exec_lw]
  refine ⟨fun hw => ?window, fun ⟨hr, haligned⟩ => ?aligned, fun ⟨hr, hmis⟩ => ?misaligned,
    fun ⟨hw, hr⟩ => ?unmapped⟩
  case window => exact ⟨_, load_of_window rfl hw, registerResult_commit ..⟩
  case aligned =>
    exact ⟨_, load_of_ram (extendWord_readRam s _) hr haligned, registerResult_commit ..⟩
  case misaligned =>
    exact ⟨_, load_of_misaligned hr hmis, stoppedWith_takeStop .., rfl, rfl, rfl, rfl⟩
  case unmapped => exact ⟨_, load_of_unmapped hw hr, stoppedWith_takeStop ..⟩

end Sys2Proof.Machine
end

section
/-! The register-immediate instructions (44_alu_immediate.md R150, R153 to R157): the sum of ADDI as a number,
the bits of the extended immediate and of the shifts, the refusal of long left shifts, and the three
obligations they settle. -/

namespace Sys2Proof.Machine

/-! ## The values, as a number and bit by bit -/

/-- The sum of ADDI, computed on the signed numbers and then taken modulo 2^32. -/
theorem add_immI_eq_ofInt (a : Word) (imm : BitVec 12) :
    a + immI imm = BitVec.ofInt 32 (a.toInt + imm.toInt) := by
  rw [immI, sext_eq_ofInt, BitVec.ofInt_add, BitVec.ofInt_toInt]

/-- Bit j of the extended immediate is bit j of imm, or its bit 11 from there on (30_encoding.md R73). -/
theorem getLsbD_immI (imm : BitVec 12) {j : Nat} (hj : j < 32) :
    (immI imm).getLsbD j = imm.getLsbD (min j 11) := by
  rw [immI, sext, BitVec.getLsbD_signExtend, decide_eq_true hj, Bool.true_and]
  split
  case isTrue hlow => rw [min_eq_left (Nat.le_of_lt_succ hlow)]
  case isFalse hhigh => rw [min_eq_right (by omega), BitVec.msb_eq_getLsbD_last]

theorem getLsbD_shiftLeft (a : Word) (k : BitVec 5) {j : Nat} (hj : j < 32) :
    (shiftLeft a k).getLsbD j = (decide (k.toNat ≤ j) && a.getLsbD (j - k.toNat)) := by
  rw [shiftLeft, BitVec.getLsbD_shiftLeft, decide_eq_true hj, Bool.true_and, ← decide_not]
  simp only [not_lt]

/-- The bits above bit 31 of a read as 0. -/
theorem getLsbD_shiftRightLogical (a : Word) (k : BitVec 5) (j : Nat) :
    (shiftRightLogical a k).getLsbD j = (decide (j + k.toNat < 32) && a.getLsbD (j + k.toNat)) := by
  rw [shiftRightLogical, BitVec.getLsbD_ushiftRight, Nat.add_comm]
  by_cases hj : j + k.toNat < 32
  · rw [decide_eq_true hj, Bool.true_and]
  · rw [decide_eq_false hj, Bool.false_and, BitVec.getLsbD_of_ge _ _ (Nat.le_of_not_lt hj)]

/-! ## Left shifts by 32 or more -/

/-- Under SLLI's opcode and funct3 a word whose funct7 is not 0000000 does not decode (30_encoding.md R82). -/
theorem decodeWord_slli_of_funct7_ne_zero {funct7 : BitVec 7} (h : funct7 ≠ 0#7) (shamt rs1 rd : RegIdx) :
    decodeWord (encodeR funct7 shamt rs1 0b001#3 rd 0x13#7) =
      .error (.unknownFunct7 0x13#7 0b001#3 funct7) := by
  rw [decodeWord_opImm (fieldOpcode_encodeR ..)]
  simp [decodeOpImm, h]

/-! ## The next state of an instruction whose result is said bit by bit -/

/-- An instruction whose meaning is to complete with v in rd has a next state that differs from s in rd and
pc alone, and whose result has the bits of v. -/
theorem bitwiseResult_of_exec_eq_completeWith {i : Instr} {s : State} {rd : RegIdx} {v : Word}
    {bit : Nat → Bool} (h : exec i s = s.completeWith rd v)
    (hbit : ∀ j : Nat, j < 32 → v.getLsbD j = bit j) :
    ∃ t v, exec i s = .next t ∧ s.RegisterResult t rd v (s.pc + 4) ∧
      ∀ j : Nat, j < 32 → v.getLsbD j = bit j :=
  have ⟨t, hnext, hresult⟩ := registerResult_of_exec_eq_completeWith h
  ⟨t, v, hnext, hresult, hbit⟩

section
variable (rd rs1 : RegIdx) (imm : BitVec 12) (shamt : BitVec 5) (s : State)

theorem exec_addi : exec (.addi rd rs1 imm) s = s.completeWith rd (s.readReg rs1 + immI imm) := rfl

theorem exec_xori : exec (.xori rd rs1 imm) s = s.completeWith rd (s.readReg rs1 ^^^ immI imm) := rfl

theorem exec_ori : exec (.ori rd rs1 imm) s = s.completeWith rd (s.readReg rs1 ||| immI imm) := rfl

theorem exec_andi : exec (.andi rd rs1 imm) s = s.completeWith rd (s.readReg rs1 &&& immI imm) := rfl

theorem exec_slli : exec (.slli rd rs1 shamt) s =
    s.completeWith rd (shiftLeft (s.readReg rs1) shamt) := rfl

theorem exec_srli : exec (.srli rd rs1 shamt) s =
    s.completeWith rd (shiftRightLogical (s.readReg rs1) shamt) := rfl

end

/-- Settles O45: the round trip of the I-format word, and the completion of ADDI with its sum as a number. -/
theorem addImmediate : Obligations.AddImmediate := by
  intro rd rs1 imm s
  refine ⟨Laws.RoundTrip.addi rd rs1 imm rfl, registerResult_of_exec_eq_completeWith ?_⟩
  rw [exec_addi, add_immI_eq_ofInt]

/-- Settles O47: the round trips of the three I-format words, and the bits of each result from those of the
extended immediate. -/
theorem logicImmediate : Obligations.LogicImmediate := by
  intro rd rs1 imm s a bit
  have himm (j : Nat) (hj : j < 32) : (immI imm).getLsbD j = bit j := getLsbD_immI imm hj
  refine ⟨Laws.RoundTrip.xori rd rs1 imm rfl, Laws.RoundTrip.ori rd rs1 imm rfl,
    Laws.RoundTrip.andi rd rs1 imm rfl,
    bitwiseResult_of_exec_eq_completeWith (exec_xori rd rs1 imm s) fun j hj => ?xori,
    bitwiseResult_of_exec_eq_completeWith (exec_ori rd rs1 imm s) fun j hj => ?ori,
    bitwiseResult_of_exec_eq_completeWith (exec_andi rd rs1 imm s) fun j hj => ?andi⟩
  case xori => rw [BitVec.getLsbD_xor, himm j hj]
  case ori => rw [BitVec.getLsbD_or, himm j hj]
  case andi => rw [BitVec.getLsbD_and, himm j hj]

/-- Settles O48: the round trips of the two shift words, the refusal of every SLLI word with bit 0 of funct7
set, and the bits of each shift. -/
theorem logicalShiftImmediate : Obligations.LogicalShiftImmediate := by
  intro rd rs1 shamt s a k
  refine ⟨Laws.RoundTrip.slli rd rs1 shamt rfl, Laws.RoundTrip.srli rd rs1 shamt rfl,
    fun funct7 hset => ?refused,
    bitwiseResult_of_exec_eq_completeWith (exec_slli rd rs1 shamt s) fun _ hj => getLsbD_shiftLeft a shamt hj,
    bitwiseResult_of_exec_eq_completeWith (exec_srli rd rs1 shamt s) fun j _ =>
      getLsbD_shiftRightLogical a shamt j⟩
  case refused =>
    have hne : funct7 ≠ 0#7 := by
      rintro rfl
      exact absurd hset (by decide)
    exact ⟨_, decodeWord_slli_of_funct7_ne_zero hne shamt rs1 rd⟩

end Sys2Proof.Machine
end

section
/-! The register-register instructions (45_alu_register.md R170 to R172, R175, R176, R178, R179): sums and
differences as numbers, the shift amount, and the three obligations they settle. -/

namespace Sys2Proof.Machine

/-! ## Sums, differences and shift amounts as numbers -/

theorem add_eq_ofInt (a b : Word) : a + b = BitVec.ofInt 32 (a.toInt + b.toInt) := by
  rw [BitVec.ofInt_add, BitVec.ofInt_toInt, BitVec.ofInt_toInt]

theorem sub_eq_ofInt (a b : Word) : a - b = BitVec.ofInt 32 (a.toInt - b.toInt) := by
  apply BitVec.eq_of_toInt_eq
  rw [BitVec.toInt_sub, BitVec.toInt_ofInt]

/-- Only bits 4:0 count, so a shift amount is taken modulo 32 (R172). -/
theorem toNat_shiftAmount (v : Word) : (shiftAmount v).toNat = v.toNat % 32 := by
  rw [shiftAmount, BitVec.extractLsb'_toNat, Nat.shiftRight_zero]

section
variable (rd rs1 rs2 : RegIdx) (s : State)

theorem exec_add : exec (.add rd rs1 rs2) s = s.completeWith rd (s.readReg rs1 + s.readReg rs2) := rfl

theorem exec_sub : exec (.sub rd rs1 rs2) s = s.completeWith rd (s.readReg rs1 - s.readReg rs2) := rfl

theorem exec_sll : exec (.sll rd rs1 rs2) s =
    s.completeWith rd (shiftLeft (s.readReg rs1) (shiftAmount (s.readReg rs2))) := rfl

theorem exec_srl : exec (.srl rd rs1 rs2) s =
    s.completeWith rd (shiftRightLogical (s.readReg rs1) (shiftAmount (s.readReg rs2))) := rfl

theorem exec_xor : exec (.xor rd rs1 rs2) s = s.completeWith rd (s.readReg rs1 ^^^ s.readReg rs2) := rfl

theorem exec_or : exec (.or rd rs1 rs2) s = s.completeWith rd (s.readReg rs1 ||| s.readReg rs2) := rfl

theorem exec_and : exec (.and rd rs1 rs2) s = s.completeWith rd (s.readReg rs1 &&& s.readReg rs2) := rfl

end

/-- Settles O49: the round trips of the two R-format words, and the completions of ADD and SUB with the sum
and the difference as numbers. -/
theorem addAndSubtract : Obligations.AddAndSubtract := by
  intro rd rs1 rs2 s a b
  refine ⟨Laws.RoundTrip.add rd rs1 rs2 rfl, Laws.RoundTrip.sub rd rs1 rs2 rfl,
    registerResult_of_exec_eq_completeWith ?add, registerResult_of_exec_eq_completeWith ?sub⟩
  case add => rw [exec_add, add_eq_ofInt]
  case sub => rw [exec_sub, sub_eq_ofInt]

/-- Settles O50: the round trips of the two R-format words, and the bits of each shift by the shift amount
in x[rs2]. -/
theorem logicalShiftRegister : Obligations.LogicalShiftRegister := by
  intro rd rs1 rs2 s a k
  have hk : (shiftAmount (s.readReg rs2)).toNat = k := toNat_shiftAmount _
  refine ⟨Laws.RoundTrip.sll rd rs1 rs2 rfl, Laws.RoundTrip.srl rd rs1 rs2 rfl,
    bitwiseResult_of_exec_eq_completeWith (exec_sll rd rs1 rs2 s) fun j hj => ?sll,
    bitwiseResult_of_exec_eq_completeWith (exec_srl rd rs1 rs2 s) fun j _ => ?srl⟩
  case sll => rw [getLsbD_shiftLeft _ _ hj, hk]
  case srl => rw [getLsbD_shiftRightLogical, hk]

/-- Settles O53: the round trips of the three R-format words, and the bits of each result from those of the
two registers. -/
theorem logicRegister : Obligations.LogicRegister := by
  intro rd rs1 rs2 s a b
  exact ⟨Laws.RoundTrip.xor rd rs1 rs2 rfl, Laws.RoundTrip.or rd rs1 rs2 rfl,
    Laws.RoundTrip.and rd rs1 rs2 rfl,
    bitwiseResult_of_exec_eq_completeWith (exec_xor rd rs1 rs2 s) fun _ _ => BitVec.getLsbD_xor,
    bitwiseResult_of_exec_eq_completeWith (exec_or rd rs1 rs2 s) fun _ _ => BitVec.getLsbD_or,
    bitwiseResult_of_exec_eq_completeWith (exec_and rd rs1 rs2 s) fun _ _ => BitVec.getLsbD_and⟩

end Sys2Proof.Machine
end

section
/-! The multiply and divide instructions (46_muldiv.md R190, R195, R197): the low half of a product as the
product of words, unsigned quotients and remainders as numbers, and the two obligations they settle. -/

namespace Sys2Proof.Machine

/-! ## The low half of a product -/

/-- Cutting an exact product to 64 bits first loses nothing of its low 32. -/
theorem productLow_eq_ofInt (p : Int) : productLow p = BitVec.ofInt 32 p := by
  apply BitVec.eq_of_toNat_eq
  rw [productLow, BitVec.extractLsb'_toNat, Nat.shiftRight_zero, BitVec.toNat_ofInt, BitVec.toNat_ofInt]
  omega

/-- The low half of the signed product is the product modulo 2^32, which does not depend on signedness. -/
theorem mulLow_eq_mul (a b : Word) : mulLow a b = a * b := by
  rw [mulLow, productLow_eq_ofInt, BitVec.ofInt_mul, BitVec.ofInt_toInt, BitVec.ofInt_toInt]

theorem toNat_mulLow (a b : Word) : (mulLow a b).toNat = a.toNat * b.toNat % 4294967296 := by
  rw [mulLow_eq_mul, BitVec.toNat_mul]

theorem toNat_mulLow_eq_toInt_mul (a b : Word) :
    ((mulLow a b).toNat : Int) = a.toInt * b.toInt % 4294967296 := by
  rw [mulLow, productLow_eq_ofInt, BitVec.toNat_ofInt]
  exact Int.toNat_of_nonneg (Int.emod_nonneg _ (by decide))

/-! ## Unsigned quotients and remainders -/

section
variable {b : Word} (a : Word)

theorem divUnsigned_of_toNat_eq_zero (hb : b.toNat = 0) : divUnsigned a b = 0xFFFFFFFF#32 :=
  if_pos (BitVec.eq_of_toNat_eq hb)

theorem remUnsigned_of_toNat_eq_zero (hb : b.toNat = 0) : remUnsigned a b = a :=
  if_pos (BitVec.eq_of_toNat_eq hb)

theorem toNat_divUnsigned_of_toNat_ne_zero (hb : b.toNat ≠ 0) :
    (divUnsigned a b).toNat = a.toNat / b.toNat := by
  have hne : b ≠ 0 := BitVec.toNat_ne.2 hb
  rw [divUnsigned, if_neg hne, ← BitVec.udiv_def, BitVec.toNat_udiv]

theorem toNat_remUnsigned_of_toNat_ne_zero (hb : b.toNat ≠ 0) :
    (remUnsigned a b).toNat = a.toNat % b.toNat := by
  have hne : b ≠ 0 := BitVec.toNat_ne.2 hb
  rw [remUnsigned, if_neg hne, ← BitVec.umod_def, BitVec.toNat_umod]

end

/-! ## The next state of an instruction whose result is said by a property -/

/-- An instruction whose meaning is to complete with v in rd has a next state that differs from s in rd and
pc alone, and whose result has what v has. -/
theorem resultWith_of_exec_eq_completeWith {i : Instr} {s : State} {rd : RegIdx} {v : Word}
    {P : Word → Prop} (h : exec i s = s.completeWith rd v) (hv : P v) :
    ∃ t v, exec i s = .next t ∧ s.RegisterResult t rd v (s.pc + 4) ∧ P v :=
  have ⟨t, hnext, hresult⟩ := registerResult_of_exec_eq_completeWith h
  ⟨t, v, hnext, hresult, hv⟩

section
variable (rd rs1 rs2 : RegIdx) (s : State)

theorem exec_mul : exec (.mul rd rs1 rs2) s =
    s.completeWith rd (mulLow (s.readReg rs1) (s.readReg rs2)) := rfl

theorem exec_divu : exec (.divu rd rs1 rs2) s =
    s.completeWith rd (divUnsigned (s.readReg rs1) (s.readReg rs2)) := rfl

theorem exec_remu : exec (.remu rd rs1 rs2) s =
    s.completeWith rd (remUnsigned (s.readReg rs1) (s.readReg rs2)) := rfl

end

/-- Settles O54: the round trip of the R-format word, and the completion of MUL with a product that is the
same number modulo 2^32 read signed and unsigned. -/
theorem multiplyLow : Obligations.MultiplyLow := by
  intro rd rs1 rs2 s a b
  exact ⟨Laws.RoundTrip.mul rd rs1 rs2 rfl,
    resultWith_of_exec_eq_completeWith (exec_mul rd rs1 rs2 s)
      ⟨toNat_mulLow_eq_toInt_mul a b, toNat_mulLow a b⟩⟩

/-- Settles O56: the round trips of the two R-format words, and the completions of DIVU and REMU by the
divisor being zero or not. -/
theorem unsignedDivision : Obligations.UnsignedDivision := by
  intro rd rs1 rs2 s a b
  exact ⟨Laws.RoundTrip.divu rd rs1 rs2 rfl, Laws.RoundTrip.remu rd rs1 rs2 rfl,
    resultWith_of_exec_eq_completeWith (exec_divu rd rs1 rs2 s)
      ⟨divUnsigned_of_toNat_eq_zero a, toNat_divUnsigned_of_toNat_ne_zero a⟩,
    resultWith_of_exec_eq_completeWith (exec_remu rd rs1 rs2 s)
      ⟨remUnsigned_of_toNat_eq_zero a, toNat_remUnsigned_of_toNat_ne_zero a⟩⟩

end Sys2Proof.Machine
end

section
/-! The system instructions and illegal words (47_system.md R210, R211, R213): the meanings of ECALL and EBREAK
in terms of the shared operations, and the three obligations. -/

namespace Sys2Proof.Machine

/-- The general registers are a view of one field. -/
theorem sameRegs_of_regs {s t : State} (h : t.regs = s.regs) : s.SameRegs t := readReg_congr h

theorem exec_ecall (s : State) : exec .ecall s = s.completeWith 10 0xFFFFFFFF := rfl

theorem exec_ebreak (s : State) :
    exec .ebreak s = .next ((s.commitPc (s.pc + 4)).takeStop (haltEbreakStop s.pc)) := rfl

/-- Settles O16: the step takes a stop on the state that has the fetched word recorded; neither update touches
registers, pc, RAM or output, and the core it leaves is halted, so the next step does nothing. -/
theorem illegalWordStopsTheCore : Obligations.IllegalWordStopsTheCore := by
  intro s w e hs hfetch hdecode
  have hhalted : ((s.recordFetch w).takeStop (decodeFaultStop w s.pc)).halted = true := takeStop_halted _ _
  exact ⟨_, step_decodeFault hs hfetch hdecode, hhalted, takeStop_stop _ _, takeStop_pc _ _,
    sameRegs_of_regs rfl, sameRam_of_fields rfl rfl, takeStop_output _ _, takeStop_currentInstruction _ _,
    step_halted hhalted⟩

/-- Settles O59: the word is the encoding of ECALL, and ECALL completes with all ones in x10. -/
theorem ecallWritesMinusOne : Obligations.EcallWritesMinusOne :=
  ⟨Laws.RoundTrip.ecall rfl, fun s => registerResult_of_exec_eq_completeWith (exec_ecall s)⟩

/-- Settles O60: the word is the encoding of EBREAK, which commits pc + 4 and then takes the stop with the
payload made from the pc before the commit; neither update touches registers, RAM or output. -/
theorem ebreakHalts : Obligations.EbreakHalts := by
  refine ⟨Laws.RoundTrip.ebreak rfl, fun s => ⟨_, exec_ebreak s, ?_⟩⟩
  have hstop : ((s.commitPc (s.pc + 4)).takeStop (haltEbreakStop s.pc)).stop = haltEbreakStop s.pc :=
    takeStop_stop _ _
  exact ⟨(takeStop_pc _ _).trans (commitPc_pc s (s.pc + 4)), takeStop_halted _ _,
    congrArg StopStatus.cause hstop, congrArg StopStatus.pc hstop, sameRegs_of_regs rfl,
    sameRam_of_fields rfl rfl, (takeStop_output _ _).trans (commitPc_output s _),
    (takeStop_currentInstruction _ _).trans (commitPc_currentInstruction s _)⟩

end Sys2Proof.Machine
end

section
/-! The encoding (30_encoding.md sections 1 to 4): the round trip of every instruction, a word rebuilt from the
fields its decoder has checked, what each part of the decoder accepts, and the two obligations they settle. -/

namespace Sys2Proof

/-! ## Decoding an encoded instruction -/

/-- The round trip of every instruction, from the round trip of each (`Laws.RoundTrip`). -/
theorem decodeWord_encode (i : Instr) (hwf : i.wf = true) : decodeWord (encode i) = .ok i := by
  cases i with
  | lui rd imm => exact Laws.RoundTrip.lui rd imm hwf
  | auipc rd imm => exact Laws.RoundTrip.auipc rd imm hwf
  | jal rd offset => exact Laws.RoundTrip.jal rd offset hwf
  | jalr rd rs1 imm => exact Laws.RoundTrip.jalr rd rs1 imm hwf
  | beq rs1 rs2 offset => exact Laws.RoundTrip.beq rs1 rs2 offset hwf
  | bne rs1 rs2 offset => exact Laws.RoundTrip.bne rs1 rs2 offset hwf
  | blt rs1 rs2 offset => exact Laws.RoundTrip.blt rs1 rs2 offset hwf
  | bge rs1 rs2 offset => exact Laws.RoundTrip.bge rs1 rs2 offset hwf
  | bltu rs1 rs2 offset => exact Laws.RoundTrip.bltu rs1 rs2 offset hwf
  | bgeu rs1 rs2 offset => exact Laws.RoundTrip.bgeu rs1 rs2 offset hwf
  | lb rd rs1 imm => exact Laws.RoundTrip.lb rd rs1 imm hwf
  | lh rd rs1 imm => exact Laws.RoundTrip.lh rd rs1 imm hwf
  | lw rd rs1 imm => exact Laws.RoundTrip.lw rd rs1 imm hwf
  | lbu rd rs1 imm => exact Laws.RoundTrip.lbu rd rs1 imm hwf
  | lhu rd rs1 imm => exact Laws.RoundTrip.lhu rd rs1 imm hwf
  | sb rs2 rs1 imm => exact Laws.RoundTrip.sb rs2 rs1 imm hwf
  | sh rs2 rs1 imm => exact Laws.RoundTrip.sh rs2 rs1 imm hwf
  | sw rs2 rs1 imm => exact Laws.RoundTrip.sw rs2 rs1 imm hwf
  | addi rd rs1 imm => exact Laws.RoundTrip.addi rd rs1 imm hwf
  | slti rd rs1 imm => exact Laws.RoundTrip.slti rd rs1 imm hwf
  | sltiu rd rs1 imm => exact Laws.RoundTrip.sltiu rd rs1 imm hwf
  | xori rd rs1 imm => exact Laws.RoundTrip.xori rd rs1 imm hwf
  | ori rd rs1 imm => exact Laws.RoundTrip.ori rd rs1 imm hwf
  | andi rd rs1 imm => exact Laws.RoundTrip.andi rd rs1 imm hwf
  | slli rd rs1 shamt => exact Laws.RoundTrip.slli rd rs1 shamt hwf
  | srli rd rs1 shamt => exact Laws.RoundTrip.srli rd rs1 shamt hwf
  | srai rd rs1 shamt => exact Laws.RoundTrip.srai rd rs1 shamt hwf
  | add rd rs1 rs2 => exact Laws.RoundTrip.add rd rs1 rs2 hwf
  | sub rd rs1 rs2 => exact Laws.RoundTrip.sub rd rs1 rs2 hwf
  | sll rd rs1 rs2 => exact Laws.RoundTrip.sll rd rs1 rs2 hwf
  | slt rd rs1 rs2 => exact Laws.RoundTrip.slt rd rs1 rs2 hwf
  | sltu rd rs1 rs2 => exact Laws.RoundTrip.sltu rd rs1 rs2 hwf
  | xor rd rs1 rs2 => exact Laws.RoundTrip.xor rd rs1 rs2 hwf
  | srl rd rs1 rs2 => exact Laws.RoundTrip.srl rd rs1 rs2 hwf
  | sra rd rs1 rs2 => exact Laws.RoundTrip.sra rd rs1 rs2 hwf
  | or rd rs1 rs2 => exact Laws.RoundTrip.or rd rs1 rs2 hwf
  | and rd rs1 rs2 => exact Laws.RoundTrip.and rd rs1 rs2 hwf
  | mul rd rs1 rs2 => exact Laws.RoundTrip.mul rd rs1 rs2 hwf
  | mulh rd rs1 rs2 => exact Laws.RoundTrip.mulh rd rs1 rs2 hwf
  | mulhsu rd rs1 rs2 => exact Laws.RoundTrip.mulhsu rd rs1 rs2 hwf
  | mulhu rd rs1 rs2 => exact Laws.RoundTrip.mulhu rd rs1 rs2 hwf
  | div rd rs1 rs2 => exact Laws.RoundTrip.div rd rs1 rs2 hwf
  | divu rd rs1 rs2 => exact Laws.RoundTrip.divu rd rs1 rs2 hwf
  | rem rd rs1 rs2 => exact Laws.RoundTrip.rem rd rs1 rs2 hwf
  | remu rd rs1 rs2 => exact Laws.RoundTrip.remu rd rs1 rs2 hwf
  | ecall => exact Laws.RoundTrip.ecall hwf
  | ebreak => exact Laws.RoundTrip.ebreak hwf

/-- Settles O1, from the round trip of each instruction. -/
theorem decodeOfEncode : Obligations.DecodeOfEncode := decodeWord_encode

/-! ## A word rebuilt from the fields that select its instruction -/

section
variable {w : Word} {opcode : BitVec 7} {funct3 : BitVec 3} {funct7 : BitVec 7}

theorem encodeU_of_fields (hop : fieldOpcode w = opcode) :
    encodeU (fieldImmU w) (fieldRd w) opcode = w :=
  hop ▸ encodeU_fields w

theorem encodeJ_of_fields (hop : fieldOpcode w = opcode) :
    encodeJ (fieldImmJ w) (fieldRd w) opcode = w :=
  hop ▸ encodeJ_fields w

theorem encodeI_of_fields (hop : fieldOpcode w = opcode) (h3 : fieldFunct3 w = funct3) :
    encodeI (fieldImmI w) (fieldRs1 w) funct3 (fieldRd w) opcode = w :=
  hop ▸ h3 ▸ encodeI_fields w

theorem encodeS_of_fields (hop : fieldOpcode w = opcode) (h3 : fieldFunct3 w = funct3) :
    encodeS (fieldImmS w) (fieldRs2 w) (fieldRs1 w) funct3 opcode = w :=
  hop ▸ h3 ▸ encodeS_fields w

theorem encodeB_of_fields (hop : fieldOpcode w = opcode) (h3 : fieldFunct3 w = funct3) :
    encodeB (fieldImmB w) (fieldRs2 w) (fieldRs1 w) funct3 opcode = w :=
  hop ▸ h3 ▸ encodeB_fields w

theorem encodeR_of_fields (hop : fieldOpcode w = opcode) (h3 : fieldFunct3 w = funct3)
    (h7 : fieldFunct7 w = funct7) :
    encodeR funct7 (fieldRs2 w) (fieldRs1 w) funct3 (fieldRd w) opcode = w :=
  hop ▸ h3 ▸ h7 ▸ encodeR_fields w

/-- The I-shift format is the R format with the shift amount in the place of rs2 (R78). -/
theorem encodeShift_of_fields (hop : fieldOpcode w = opcode) (h3 : fieldFunct3 w = funct3)
    (h7 : fieldFunct7 w = funct7) :
    encodeR funct7 (fieldShamt w) (fieldRs1 w) funct3 (fieldRd w) opcode = w :=
  encodeR_of_fields hop h3 h7

end

/-! ## What each part of the decoder accepts -/

section
variable {w : Word} {i : Instr}

theorem encode_of_decodeJalr (hop : fieldOpcode w = 0x67#7) (h : decodeJalr w = .ok i) :
    encode i = w ∧ i.wf = true := by
  unfold decodeJalr at h
  split_ifs at h with h3
  cases h
  exact ⟨encodeI_of_fields hop h3, rfl⟩

theorem encode_of_decodeBranch (hop : fieldOpcode w = 0x63#7) (h : decodeBranch w = .ok i) :
    encode i = w ∧ i.wf = true := by
  unfold decodeBranch at h
  split_ifs at h with h0 h1 h4 h5 h6 h7 <;> cases h
  · exact ⟨encodeB_of_fields hop h0, evenOffset_fieldImmB w⟩
  · exact ⟨encodeB_of_fields hop h1, evenOffset_fieldImmB w⟩
  · exact ⟨encodeB_of_fields hop h4, evenOffset_fieldImmB w⟩
  · exact ⟨encodeB_of_fields hop h5, evenOffset_fieldImmB w⟩
  · exact ⟨encodeB_of_fields hop h6, evenOffset_fieldImmB w⟩
  · exact ⟨encodeB_of_fields hop h7, evenOffset_fieldImmB w⟩

theorem encode_of_decodeLoad (hop : fieldOpcode w = 0x03#7) (h : decodeLoad w = .ok i) :
    encode i = w ∧ i.wf = true := by
  unfold decodeLoad at h
  split_ifs at h with h0 h1 h2 h4 h5 <;> cases h
  · exact ⟨encodeI_of_fields hop h0, rfl⟩
  · exact ⟨encodeI_of_fields hop h1, rfl⟩
  · exact ⟨encodeI_of_fields hop h2, rfl⟩
  · exact ⟨encodeI_of_fields hop h4, rfl⟩
  · exact ⟨encodeI_of_fields hop h5, rfl⟩

theorem encode_of_decodeStore (hop : fieldOpcode w = 0x23#7) (h : decodeStore w = .ok i) :
    encode i = w ∧ i.wf = true := by
  unfold decodeStore at h
  split_ifs at h with h0 h1 h2 <;> cases h
  · exact ⟨encodeS_of_fields hop h0, rfl⟩
  · exact ⟨encodeS_of_fields hop h1, rfl⟩
  · exact ⟨encodeS_of_fields hop h2, rfl⟩

theorem encode_of_decodeOpImm (hop : fieldOpcode w = 0x13#7) (h : decodeOpImm w = .ok i) :
    encode i = w ∧ i.wf = true := by
  unfold decodeOpImm at h
  split_ifs at h with h0 h2 h3 h4 h6 h7 h1 h1' h5 h5' h5'' <;> cases h
  · exact ⟨encodeI_of_fields hop h0, rfl⟩
  · exact ⟨encodeI_of_fields hop h2, rfl⟩
  · exact ⟨encodeI_of_fields hop h3, rfl⟩
  · exact ⟨encodeI_of_fields hop h4, rfl⟩
  · exact ⟨encodeI_of_fields hop h6, rfl⟩
  · exact ⟨encodeI_of_fields hop h7, rfl⟩
  · exact ⟨encodeShift_of_fields hop h1 h1', rfl⟩
  · exact ⟨encodeShift_of_fields hop h5 h5', rfl⟩
  · exact ⟨encodeShift_of_fields hop h5 h5'', rfl⟩

theorem encode_of_decodeOpBase (hop : fieldOpcode w = 0x33#7) (hf : fieldFunct7 w = 0b0000000#7)
    (h : decodeOpBase w = .ok i) : encode i = w ∧ i.wf = true := by
  unfold decodeOpBase at h
  split_ifs at h with h0 h1 h2 h3 h4 h5 h6 h7 <;> cases h
  · exact ⟨encodeR_of_fields hop h0 hf, rfl⟩
  · exact ⟨encodeR_of_fields hop h1 hf, rfl⟩
  · exact ⟨encodeR_of_fields hop h2 hf, rfl⟩
  · exact ⟨encodeR_of_fields hop h3 hf, rfl⟩
  · exact ⟨encodeR_of_fields hop h4 hf, rfl⟩
  · exact ⟨encodeR_of_fields hop h5 hf, rfl⟩
  · exact ⟨encodeR_of_fields hop h6 hf, rfl⟩
  · exact ⟨encodeR_of_fields hop h7 hf, rfl⟩

theorem encode_of_decodeOpAlternate (hop : fieldOpcode w = 0x33#7) (hf : fieldFunct7 w = 0b0100000#7)
    (h : decodeOpAlternate w = .ok i) : encode i = w ∧ i.wf = true := by
  unfold decodeOpAlternate at h
  split_ifs at h with h0 h5 <;> cases h
  · exact ⟨encodeR_of_fields hop h0 hf, rfl⟩
  · exact ⟨encodeR_of_fields hop h5 hf, rfl⟩

theorem encode_of_decodeOpMulDiv (hop : fieldOpcode w = 0x33#7) (hf : fieldFunct7 w = 0b0000001#7)
    (h : decodeOpMulDiv w = .ok i) : encode i = w ∧ i.wf = true := by
  unfold decodeOpMulDiv at h
  split_ifs at h with h0 h1 h2 h3 h4 h5 h6 h7 <;> cases h
  · exact ⟨encodeR_of_fields hop h0 hf, rfl⟩
  · exact ⟨encodeR_of_fields hop h1 hf, rfl⟩
  · exact ⟨encodeR_of_fields hop h2 hf, rfl⟩
  · exact ⟨encodeR_of_fields hop h3 hf, rfl⟩
  · exact ⟨encodeR_of_fields hop h4 hf, rfl⟩
  · exact ⟨encodeR_of_fields hop h5 hf, rfl⟩
  · exact ⟨encodeR_of_fields hop h6 hf, rfl⟩
  · exact ⟨encodeR_of_fields hop h7 hf, rfl⟩

theorem encode_of_decodeOp (hop : fieldOpcode w = 0x33#7) (h : decodeOp w = .ok i) :
    encode i = w ∧ i.wf = true := by
  unfold decodeOp at h
  split_ifs at h with hbase halt hmul
  · exact encode_of_decodeOpBase hop hbase h
  · exact encode_of_decodeOpAlternate hop halt h
  · exact encode_of_decodeOpMulDiv hop hmul h

theorem encode_of_decodeSystem (h : decodeSystem w = .ok i) : encode i = w ∧ i.wf = true := by
  unfold decodeSystem at h
  split_ifs at h with hecall hebreak <;> cases h
  · exact ⟨hecall.symm, rfl⟩
  · exact ⟨hebreak.symm, rfl⟩

/-- A word that decodes is the encoding of a well-formed instruction, by its major opcode. -/
theorem encode_of_decodeWord (h : decodeWord w = .ok i) : encode i = w ∧ i.wf = true := by
  unfold decodeWord at h
  split_ifs at h with hlui hauipc hjal hjalr hbranch hload hstore himm hop
  · cases h; exact ⟨encodeU_of_fields hlui, rfl⟩
  · cases h; exact ⟨encodeU_of_fields hauipc, rfl⟩
  · cases h; exact ⟨encodeJ_of_fields hjal, evenOffset_fieldImmJ w⟩
  · exact encode_of_decodeJalr hjalr h
  · exact encode_of_decodeBranch hbranch h
  · exact encode_of_decodeLoad hload h
  · exact encode_of_decodeStore hstore h
  · exact encode_of_decodeOpImm himm h
  · exact encode_of_decodeOp hop h
  · exact encode_of_decodeSystem h

end

/-- Settles O2, by the parts of the decoder: each builds its instruction from all the fields of the word. -/
theorem encodeOfDecode : Obligations.EncodeOfDecode := fun _ _ => encode_of_decodeWord

/-- The only well-formed instruction that a word decodes to is the one it encodes. -/
theorem decodeWord_of_encode_eq {w : Word} {i : Instr} (h : encode i = w) (hwf : i.wf = true) :
    decodeWord w = .ok i :=
  h ▸ decodeWord_encode i hwf

end Sys2Proof
end

section
/-! The opcode table (30_encoding.md section 3): what the masks of its rows select, the row of each instruction,
the instruction of each row, and the obligation they settle. -/

namespace Sys2Proof

/-! ## What a row's mask selects (R80) -/

/-- Masking a word masks each of its fields. -/
theorem encodeR_and (f7 m7 : BitVec 7) (r2 m2 r1 m1 : RegIdx) (f3 m3 : BitVec 3) (d md : RegIdx)
    (op mop : BitVec 7) :
    encodeR f7 r2 r1 f3 d op &&& encodeR m7 m2 m1 m3 md mop =
      encodeR (f7 &&& m7) (r2 &&& m2) (r1 &&& m1) (f3 &&& m3) (d &&& md) (op &&& mop) := by
  simp only [encodeR, ← BitVec.and_append]

section
variable (w : Word)

theorem and_opcodeMask : w &&& 0x0000007F = encodeR 0 0 0 0 0 (fieldOpcode w) := by
  have hmask : (0x0000007F : Word) = encodeR 0 0 0 0 0 (BitVec.allOnes 7) := by decide
  rw [hmask]
  nth_rw 1 [← encodeR_fields w]
  simp only [encodeR_and, BitVec.and_allOnes, BitVec.ofNat_eq_ofNat, BitVec.and_zero]

theorem and_funct3Mask : w &&& 0x0000707F = encodeR 0 0 0 (fieldFunct3 w) 0 (fieldOpcode w) := by
  have hmask : (0x0000707F : Word) = encodeR 0 0 0 (BitVec.allOnes 3) 0 (BitVec.allOnes 7) := by decide
  rw [hmask]
  nth_rw 1 [← encodeR_fields w]
  simp only [encodeR_and, BitVec.and_allOnes, BitVec.ofNat_eq_ofNat, BitVec.and_zero]

theorem and_funct7Mask :
    w &&& 0xFE00707F = encodeR (fieldFunct7 w) 0 0 (fieldFunct3 w) 0 (fieldOpcode w) := by
  have hmask : (0xFE00707F : Word) =
      encodeR (BitVec.allOnes 7) 0 0 (BitVec.allOnes 3) 0 (BitVec.allOnes 7) := by decide
  rw [hmask]
  nth_rw 1 [← encodeR_fields w]
  simp only [encodeR_and, BitVec.and_allOnes, BitVec.ofNat_eq_ofNat, BitVec.and_zero]

end

/-! ## The row of each instruction -/

/-- The word of i matches a row that has the mnemonic of i. -/
def Instr.MatchesARow (i : Instr) : Prop :=
  ∃ row ∈ opcodeTable, row.mnemonic = i.mnemonic ∧ encode i &&& row.mask = row.pattern

section
variable {i : Instr} {op : BitVec 7} {f3 : BitVec 3} {f7 : BitVec 7}

theorem matchesARow_of_opcode (hop : fieldOpcode (encode i) = op)
    (hrow : (⟨i.mnemonic, 0x0000007F, encodeR 0 0 0 0 0 op⟩ : OpcodeRow) ∈ opcodeTable) :
    i.MatchesARow :=
  ⟨_, hrow, rfl, by rw [and_opcodeMask, hop]⟩

theorem matchesARow_of_funct3 (hop : fieldOpcode (encode i) = op) (h3 : fieldFunct3 (encode i) = f3)
    (hrow : (⟨i.mnemonic, 0x0000707F, encodeR 0 0 0 f3 0 op⟩ : OpcodeRow) ∈ opcodeTable) :
    i.MatchesARow :=
  ⟨_, hrow, rfl, by rw [and_funct3Mask, hop, h3]⟩

theorem matchesARow_of_funct7 (hop : fieldOpcode (encode i) = op) (h3 : fieldFunct3 (encode i) = f3)
    (h7 : fieldFunct7 (encode i) = f7)
    (hrow : (⟨i.mnemonic, 0xFE00707F, encodeR f7 0 0 f3 0 op⟩ : OpcodeRow) ∈ opcodeTable) :
    i.MatchesARow :=
  ⟨_, hrow, rfl, by rw [and_funct7Mask, hop, h3, h7]⟩

/-- An I-format word matches a row that selects opcode and funct3. -/
theorem matchesARow_of_encodeI {imm : BitVec 12} {rs1 rd : RegIdx}
    (henc : encode i = encodeI imm rs1 f3 rd op)
    (hrow : (⟨i.mnemonic, 0x0000707F, encodeR 0 0 0 f3 0 op⟩ : OpcodeRow) ∈ opcodeTable) :
    i.MatchesARow :=
  matchesARow_of_funct3 (henc ▸ fieldOpcode_encodeI ..) (henc ▸ fieldFunct3_encodeI ..) hrow

/-- An S-format word matches a row that selects opcode and funct3. -/
theorem matchesARow_of_encodeS {imm : BitVec 12} {rs2 rs1 : RegIdx}
    (henc : encode i = encodeS imm rs2 rs1 f3 op)
    (hrow : (⟨i.mnemonic, 0x0000707F, encodeR 0 0 0 f3 0 op⟩ : OpcodeRow) ∈ opcodeTable) :
    i.MatchesARow :=
  matchesARow_of_funct3 (henc ▸ fieldOpcode_encodeS ..) (henc ▸ fieldFunct3_encodeS ..) hrow

/-- A B-format word matches a row that selects opcode and funct3. -/
theorem matchesARow_of_encodeB {offset : BitVec 13} {rs2 rs1 : RegIdx}
    (henc : encode i = encodeB offset rs2 rs1 f3 op)
    (hrow : (⟨i.mnemonic, 0x0000707F, encodeR 0 0 0 f3 0 op⟩ : OpcodeRow) ∈ opcodeTable) :
    i.MatchesARow :=
  matchesARow_of_funct3 (henc ▸ fieldOpcode_encodeB ..) (henc ▸ fieldFunct3_encodeB ..) hrow

/-- An R-format word matches a row that selects opcode, funct3 and funct7. -/
theorem matchesARow_of_encodeR {rs2 rs1 rd : RegIdx} (henc : encode i = encodeR f7 rs2 rs1 f3 rd op)
    (hrow : (⟨i.mnemonic, 0xFE00707F, encodeR f7 0 0 f3 0 op⟩ : OpcodeRow) ∈ opcodeTable) :
    i.MatchesARow :=
  matchesARow_of_funct7 (henc ▸ fieldOpcode_encodeR ..) (henc ▸ fieldFunct3_encodeR ..)
    (henc ▸ fieldFunct7_encodeR ..) hrow

end

/-- The rows by their places in the table. -/
theorem row_mem (k : Fin 47) : opcodeTable[k]'k.isLt ∈ opcodeTable := List.getElem_mem k.isLt

/-- Every instruction's word matches the row of its mnemonic, its place in Table 30-4. -/
theorem matchesARow (i : Instr) : i.MatchesARow := by
  cases i with
  | lui rd imm => exact matchesARow_of_opcode (fieldOpcode_encodeU ..) (row_mem 0)
  | auipc rd imm => exact matchesARow_of_opcode (fieldOpcode_encodeU ..) (row_mem 1)
  | jal rd offset => exact matchesARow_of_opcode (fieldOpcode_encodeJ ..) (row_mem 2)
  | jalr rd rs1 imm => exact matchesARow_of_encodeI rfl (row_mem 3)
  | beq rs1 rs2 offset => exact matchesARow_of_encodeB rfl (row_mem 4)
  | bne rs1 rs2 offset => exact matchesARow_of_encodeB rfl (row_mem 5)
  | blt rs1 rs2 offset => exact matchesARow_of_encodeB rfl (row_mem 6)
  | bge rs1 rs2 offset => exact matchesARow_of_encodeB rfl (row_mem 7)
  | bltu rs1 rs2 offset => exact matchesARow_of_encodeB rfl (row_mem 8)
  | bgeu rs1 rs2 offset => exact matchesARow_of_encodeB rfl (row_mem 9)
  | lb rd rs1 imm => exact matchesARow_of_encodeI rfl (row_mem 10)
  | lh rd rs1 imm => exact matchesARow_of_encodeI rfl (row_mem 11)
  | lw rd rs1 imm => exact matchesARow_of_encodeI rfl (row_mem 12)
  | lbu rd rs1 imm => exact matchesARow_of_encodeI rfl (row_mem 13)
  | lhu rd rs1 imm => exact matchesARow_of_encodeI rfl (row_mem 14)
  | sb rs2 rs1 imm => exact matchesARow_of_encodeS rfl (row_mem 15)
  | sh rs2 rs1 imm => exact matchesARow_of_encodeS rfl (row_mem 16)
  | sw rs2 rs1 imm => exact matchesARow_of_encodeS rfl (row_mem 17)
  | addi rd rs1 imm => exact matchesARow_of_encodeI rfl (row_mem 18)
  | slti rd rs1 imm => exact matchesARow_of_encodeI rfl (row_mem 19)
  | sltiu rd rs1 imm => exact matchesARow_of_encodeI rfl (row_mem 20)
  | xori rd rs1 imm => exact matchesARow_of_encodeI rfl (row_mem 21)
  | ori rd rs1 imm => exact matchesARow_of_encodeI rfl (row_mem 22)
  | andi rd rs1 imm => exact matchesARow_of_encodeI rfl (row_mem 23)
  | slli rd rs1 shamt => exact matchesARow_of_encodeR rfl (row_mem 24)
  | srli rd rs1 shamt => exact matchesARow_of_encodeR rfl (row_mem 25)
  | srai rd rs1 shamt => exact matchesARow_of_encodeR rfl (row_mem 26)
  | add rd rs1 rs2 => exact matchesARow_of_encodeR rfl (row_mem 27)
  | sub rd rs1 rs2 => exact matchesARow_of_encodeR rfl (row_mem 28)
  | sll rd rs1 rs2 => exact matchesARow_of_encodeR rfl (row_mem 29)
  | slt rd rs1 rs2 => exact matchesARow_of_encodeR rfl (row_mem 30)
  | sltu rd rs1 rs2 => exact matchesARow_of_encodeR rfl (row_mem 31)
  | xor rd rs1 rs2 => exact matchesARow_of_encodeR rfl (row_mem 32)
  | srl rd rs1 rs2 => exact matchesARow_of_encodeR rfl (row_mem 33)
  | sra rd rs1 rs2 => exact matchesARow_of_encodeR rfl (row_mem 34)
  | or rd rs1 rs2 => exact matchesARow_of_encodeR rfl (row_mem 35)
  | and rd rs1 rs2 => exact matchesARow_of_encodeR rfl (row_mem 36)
  | mul rd rs1 rs2 => exact matchesARow_of_encodeR rfl (row_mem 37)
  | mulh rd rs1 rs2 => exact matchesARow_of_encodeR rfl (row_mem 38)
  | mulhsu rd rs1 rs2 => exact matchesARow_of_encodeR rfl (row_mem 39)
  | mulhu rd rs1 rs2 => exact matchesARow_of_encodeR rfl (row_mem 40)
  | div rd rs1 rs2 => exact matchesARow_of_encodeR rfl (row_mem 41)
  | divu rd rs1 rs2 => exact matchesARow_of_encodeR rfl (row_mem 42)
  | rem rd rs1 rs2 => exact matchesARow_of_encodeR rfl (row_mem 43)
  | remu rd rs1 rs2 => exact matchesARow_of_encodeR rfl (row_mem 44)
  | ecall => exact ⟨_, row_mem 45, rfl, rfl⟩
  | ebreak => exact ⟨_, row_mem 46, rfl, rfl⟩

/-! ## The instruction of each row -/

section
variable {w p : Word}

theorem encodeU_of_matches (h : w &&& 0x0000007F = p) :
    encodeU (fieldImmU w) (fieldRd w) (fieldOpcode p) = w :=
  encodeU_of_fields (by rw [← h, and_opcodeMask, fieldOpcode_encodeR])

theorem encodeJ_of_matches (h : w &&& 0x0000007F = p) :
    encodeJ (fieldImmJ w) (fieldRd w) (fieldOpcode p) = w :=
  encodeJ_of_fields (by rw [← h, and_opcodeMask, fieldOpcode_encodeR])

theorem fields_of_and_funct3Mask (h : w &&& 0x0000707F = p) :
    fieldOpcode w = fieldOpcode p ∧ fieldFunct3 w = fieldFunct3 p := by
  rw [← h, and_funct3Mask, fieldOpcode_encodeR, fieldFunct3_encodeR]
  exact ⟨rfl, rfl⟩

theorem encodeI_of_matches (h : w &&& 0x0000707F = p) :
    encodeI (fieldImmI w) (fieldRs1 w) (fieldFunct3 p) (fieldRd w) (fieldOpcode p) = w :=
  have ⟨hop, h3⟩ := fields_of_and_funct3Mask h
  encodeI_of_fields hop h3

theorem encodeS_of_matches (h : w &&& 0x0000707F = p) :
    encodeS (fieldImmS w) (fieldRs2 w) (fieldRs1 w) (fieldFunct3 p) (fieldOpcode p) = w :=
  have ⟨hop, h3⟩ := fields_of_and_funct3Mask h
  encodeS_of_fields hop h3

theorem encodeB_of_matches (h : w &&& 0x0000707F = p) :
    encodeB (fieldImmB w) (fieldRs2 w) (fieldRs1 w) (fieldFunct3 p) (fieldOpcode p) = w :=
  have ⟨hop, h3⟩ := fields_of_and_funct3Mask h
  encodeB_of_fields hop h3

theorem encodeR_of_matches (h : w &&& 0xFE00707F = p) :
    encodeR (fieldFunct7 p) (fieldRs2 w) (fieldRs1 w) (fieldFunct3 p) (fieldRd w) (fieldOpcode p) = w := by
  refine encodeR_of_fields ?_ ?_ ?_
  · rw [← h, and_funct7Mask, fieldOpcode_encodeR]
  · rw [← h, and_funct7Mask, fieldFunct3_encodeR]
  · rw [← h, and_funct7Mask, fieldFunct7_encodeR]

theorem eq_of_matches_allOnes (h : w &&& 0xFFFFFFFF = p) : p = w :=
  h.symm.trans BitVec.and_allOnes

end

/-- The word w decodes to an instruction of the row's mnemonic. -/
def OpcodeRow.Decodes (row : OpcodeRow) (w : Word) : Prop :=
  ∃ i : Instr, decodeWord w = .ok i ∧ i.mnemonic = row.mnemonic

theorem decodes_of_encode_eq {row : OpcodeRow} {w : Word} (i : Instr) (henc : encode i = w)
    (hwf : i.wf = true) (hname : i.mnemonic = row.mnemonic) : row.Decodes w :=
  ⟨i, decodeWord_of_encode_eq henc hwf, hname⟩

/-- A word that matches a row is the word of an instruction of that row, its operands the fields of the
word. -/
theorem decodes_of_matches (w : Word) :
    ∀ row ∈ opcodeTable, w &&& row.mask = row.pattern → row.Decodes w := by
  simp only [opcodeTable, List.cons_append, List.nil_append, List.forall_mem_cons]
  refine ⟨
    fun h => decodes_of_encode_eq (.lui (fieldRd w) (fieldImmU w)) (encodeU_of_matches h :) rfl rfl,
    fun h => decodes_of_encode_eq (.auipc (fieldRd w) (fieldImmU w)) (encodeU_of_matches h :) rfl rfl,
    fun h => decodes_of_encode_eq (.jal (fieldRd w) (fieldImmJ w))
      (encodeJ_of_matches h :) (evenOffset_fieldImmJ w) rfl,
    fun h => decodes_of_encode_eq (.jalr (fieldRd w) (fieldRs1 w) (fieldImmI w))
      (encodeI_of_matches h :) rfl rfl,
    fun h => decodes_of_encode_eq (.beq (fieldRs1 w) (fieldRs2 w) (fieldImmB w))
      (encodeB_of_matches h :) (evenOffset_fieldImmB w) rfl,
    fun h => decodes_of_encode_eq (.bne (fieldRs1 w) (fieldRs2 w) (fieldImmB w))
      (encodeB_of_matches h :) (evenOffset_fieldImmB w) rfl,
    fun h => decodes_of_encode_eq (.blt (fieldRs1 w) (fieldRs2 w) (fieldImmB w))
      (encodeB_of_matches h :) (evenOffset_fieldImmB w) rfl,
    fun h => decodes_of_encode_eq (.bge (fieldRs1 w) (fieldRs2 w) (fieldImmB w))
      (encodeB_of_matches h :) (evenOffset_fieldImmB w) rfl,
    fun h => decodes_of_encode_eq (.bltu (fieldRs1 w) (fieldRs2 w) (fieldImmB w))
      (encodeB_of_matches h :) (evenOffset_fieldImmB w) rfl,
    fun h => decodes_of_encode_eq (.bgeu (fieldRs1 w) (fieldRs2 w) (fieldImmB w))
      (encodeB_of_matches h :) (evenOffset_fieldImmB w) rfl,
    fun h => decodes_of_encode_eq (.lb (fieldRd w) (fieldRs1 w) (fieldImmI w))
      (encodeI_of_matches h :) rfl rfl,
    fun h => decodes_of_encode_eq (.lh (fieldRd w) (fieldRs1 w) (fieldImmI w))
      (encodeI_of_matches h :) rfl rfl,
    fun h => decodes_of_encode_eq (.lw (fieldRd w) (fieldRs1 w) (fieldImmI w))
      (encodeI_of_matches h :) rfl rfl,
    fun h => decodes_of_encode_eq (.lbu (fieldRd w) (fieldRs1 w) (fieldImmI w))
      (encodeI_of_matches h :) rfl rfl,
    fun h => decodes_of_encode_eq (.lhu (fieldRd w) (fieldRs1 w) (fieldImmI w))
      (encodeI_of_matches h :) rfl rfl,
    fun h => decodes_of_encode_eq (.sb (fieldRs2 w) (fieldRs1 w) (fieldImmS w))
      (encodeS_of_matches h :) rfl rfl,
    fun h => decodes_of_encode_eq (.sh (fieldRs2 w) (fieldRs1 w) (fieldImmS w))
      (encodeS_of_matches h :) rfl rfl,
    fun h => decodes_of_encode_eq (.sw (fieldRs2 w) (fieldRs1 w) (fieldImmS w))
      (encodeS_of_matches h :) rfl rfl,
    fun h => decodes_of_encode_eq (.addi (fieldRd w) (fieldRs1 w) (fieldImmI w))
      (encodeI_of_matches h :) rfl rfl,
    fun h => decodes_of_encode_eq (.slti (fieldRd w) (fieldRs1 w) (fieldImmI w))
      (encodeI_of_matches h :) rfl rfl,
    fun h => decodes_of_encode_eq (.sltiu (fieldRd w) (fieldRs1 w) (fieldImmI w))
      (encodeI_of_matches h :) rfl rfl,
    fun h => decodes_of_encode_eq (.xori (fieldRd w) (fieldRs1 w) (fieldImmI w))
      (encodeI_of_matches h :) rfl rfl,
    fun h => decodes_of_encode_eq (.ori (fieldRd w) (fieldRs1 w) (fieldImmI w))
      (encodeI_of_matches h :) rfl rfl,
    fun h => decodes_of_encode_eq (.andi (fieldRd w) (fieldRs1 w) (fieldImmI w))
      (encodeI_of_matches h :) rfl rfl,
    fun h => decodes_of_encode_eq (.slli (fieldRd w) (fieldRs1 w) (fieldShamt w))
      (encodeR_of_matches h :) rfl rfl,
    fun h => decodes_of_encode_eq (.srli (fieldRd w) (fieldRs1 w) (fieldShamt w))
      (encodeR_of_matches h :) rfl rfl,
    fun h => decodes_of_encode_eq (.srai (fieldRd w) (fieldRs1 w) (fieldShamt w))
      (encodeR_of_matches h :) rfl rfl,
    fun h => decodes_of_encode_eq (.add (fieldRd w) (fieldRs1 w) (fieldRs2 w))
      (encodeR_of_matches h :) rfl rfl,
    fun h => decodes_of_encode_eq (.sub (fieldRd w) (fieldRs1 w) (fieldRs2 w))
      (encodeR_of_matches h :) rfl rfl,
    fun h => decodes_of_encode_eq (.sll (fieldRd w) (fieldRs1 w) (fieldRs2 w))
      (encodeR_of_matches h :) rfl rfl,
    fun h => decodes_of_encode_eq (.slt (fieldRd w) (fieldRs1 w) (fieldRs2 w))
      (encodeR_of_matches h :) rfl rfl,
    fun h => decodes_of_encode_eq (.sltu (fieldRd w) (fieldRs1 w) (fieldRs2 w))
      (encodeR_of_matches h :) rfl rfl,
    fun h => decodes_of_encode_eq (.xor (fieldRd w) (fieldRs1 w) (fieldRs2 w))
      (encodeR_of_matches h :) rfl rfl,
    fun h => decodes_of_encode_eq (.srl (fieldRd w) (fieldRs1 w) (fieldRs2 w))
      (encodeR_of_matches h :) rfl rfl,
    fun h => decodes_of_encode_eq (.sra (fieldRd w) (fieldRs1 w) (fieldRs2 w))
      (encodeR_of_matches h :) rfl rfl,
    fun h => decodes_of_encode_eq (.or (fieldRd w) (fieldRs1 w) (fieldRs2 w)) (encodeR_of_matches h :) rfl rfl,
    fun h => decodes_of_encode_eq (.and (fieldRd w) (fieldRs1 w) (fieldRs2 w))
      (encodeR_of_matches h :) rfl rfl,
    fun h => decodes_of_encode_eq (.mul (fieldRd w) (fieldRs1 w) (fieldRs2 w))
      (encodeR_of_matches h :) rfl rfl,
    fun h => decodes_of_encode_eq (.mulh (fieldRd w) (fieldRs1 w) (fieldRs2 w))
      (encodeR_of_matches h :) rfl rfl,
    fun h => decodes_of_encode_eq (.mulhsu (fieldRd w) (fieldRs1 w) (fieldRs2 w))
      (encodeR_of_matches h :) rfl rfl,
    fun h => decodes_of_encode_eq (.mulhu (fieldRd w) (fieldRs1 w) (fieldRs2 w))
      (encodeR_of_matches h :) rfl rfl,
    fun h => decodes_of_encode_eq (.div (fieldRd w) (fieldRs1 w) (fieldRs2 w))
      (encodeR_of_matches h :) rfl rfl,
    fun h => decodes_of_encode_eq (.divu (fieldRd w) (fieldRs1 w) (fieldRs2 w))
      (encodeR_of_matches h :) rfl rfl,
    fun h => decodes_of_encode_eq (.rem (fieldRd w) (fieldRs1 w) (fieldRs2 w))
      (encodeR_of_matches h :) rfl rfl,
    fun h => decodes_of_encode_eq (.remu (fieldRd w) (fieldRs1 w) (fieldRs2 w))
      (encodeR_of_matches h :) rfl rfl,
    fun h => decodes_of_encode_eq .ecall (eq_of_matches_allOnes h :) rfl rfl,
    fun h => decodes_of_encode_eq .ebreak (eq_of_matches_allOnes h :) rfl rfl,
    fun _ hnil => nomatch hnil⟩

/-! ## Rows do not overlap -/

/-- Two rows disagree on a bit that both masks select. -/
theorem opcodeTable_pairwise_disagree :
    opcodeTable.Pairwise fun p q => p.pattern &&& q.mask ≠ q.pattern &&& p.mask := by decide

theorem row_eq_of_matches {w : Word} {p q : OpcodeRow} (hp : p ∈ opcodeTable) (hq : q ∈ opcodeTable)
    (hwp : w &&& p.mask = p.pattern) (hwq : w &&& q.mask = q.pattern) : p = q := by
  by_contra hne
  have hsymm : Std.Symm fun p q : OpcodeRow => p.pattern &&& q.mask ≠ q.pattern &&& p.mask :=
    ⟨fun _ _ h => h.symm⟩
  refine opcodeTable_pairwise_disagree.forall hp hq hne ?_
  rw [← hwp, ← hwq, BitVec.and_assoc, BitVec.and_assoc, BitVec.and_comm p.mask]

/-- Settles O3: a word that decodes is the word of its instruction, which matches a row; a word that matches a
row is the word of an instruction of it; and two rows disagree on a bit that both select. -/
theorem decodeAgreesWithOpcodeTable : Obligations.DecodeAgreesWithOpcodeTable := by
  refine ⟨fun w i h => ?_, decodes_of_matches, fun w p hp q hq => row_eq_of_matches hp hq⟩
  obtain ⟨rfl, -⟩ := encode_of_decodeWord h
  exact matchesARow i

end Sys2Proof
end

section
/-! The illegal words (30_encoding.md section 4): what the decoder refuses under each major opcode of
Table 30-3, and the two obligations they settle. -/

namespace Sys2Proof

/-- The eight values of funct3. -/
theorem funct3_cases (f : BitVec 3) :
    f = 0#3 ∨ f = 1#3 ∨ f = 2#3 ∨ f = 3#3 ∨ f = 4#3 ∨ f = 5#3 ∨ f = 6#3 ∨ f = 7#3 := by
  revert f
  decide

/-- The decoder refuses the word. -/
def Refused (w : Word) : Prop := ∃ e : DecodeError, decodeWord w = .error e

section
variable {w : Word}

theorem not_refused_of_decodes {i : Instr} (h : decodeWord w = .ok i) : ¬ Refused w := by
  rintro ⟨e, he⟩
  rw [h] at he
  cases he

theorem refused_of_unlisted_opcode
    (h : fieldOpcode w ∉ [0x37#7, 0x17#7, 0x6F#7, 0x67#7, 0x63#7, 0x03#7, 0x23#7, 0x13#7, 0x33#7, 0x73#7]) :
    Refused w := by
  simp only [List.mem_cons, List.not_mem_nil, or_false, not_or] at h
  exact ⟨.unknownOpcode (fieldOpcode w), by simp only [decodeWord, h, if_false]⟩

theorem refused_iff_of_jalr (h : fieldOpcode w = 0x67#7) : Refused w ↔ fieldFunct3 w ≠ 0 := by
  rw [Refused, decodeWord_jalr h, decodeJalr]
  by_cases h3 : fieldFunct3 w = 0#3 <;> simp [h3]

theorem refused_iff_of_branch (h : fieldOpcode w = 0x63#7) :
    Refused w ↔ fieldFunct3 w ∈ [2#3, 3#3] := by
  rw [Refused, decodeWord_branch h, decodeBranch]
  rcases funct3_cases (fieldFunct3 w) with h3 | h3 | h3 | h3 | h3 | h3 | h3 | h3 <;> simp [h3]

theorem refused_iff_of_load (h : fieldOpcode w = 0x03#7) :
    Refused w ↔ fieldFunct3 w ∈ [3#3, 6#3, 7#3] := by
  rw [Refused, decodeWord_load h, decodeLoad]
  rcases funct3_cases (fieldFunct3 w) with h3 | h3 | h3 | h3 | h3 | h3 | h3 | h3 <;> simp [h3]

theorem refused_iff_of_store (h : fieldOpcode w = 0x23#7) :
    Refused w ↔ fieldFunct3 w ∈ [3#3, 4#3, 5#3, 6#3, 7#3] := by
  rw [Refused, decodeWord_store h, decodeStore]
  rcases funct3_cases (fieldFunct3 w) with h3 | h3 | h3 | h3 | h3 | h3 | h3 | h3 <;> simp [h3]

/-- Only the shifts check funct7. -/
theorem refused_iff_of_opImm (h : fieldOpcode w = 0x13#7) :
    Refused w ↔ (fieldFunct3 w = 1#3 ∧ fieldFunct7 w ≠ 0) ∨
      (fieldFunct3 w = 5#3 ∧ fieldFunct7 w ∉ [0#7, 0x20#7]) := by
  rw [Refused, decodeWord_opImm h, decodeOpImm]
  rcases funct3_cases (fieldFunct3 w) with h3 | h3 | h3 | h3 | h3 | h3 | h3 | h3
  case inr.inl => by_cases h7 : fieldFunct7 w = 0#7 <;> simp [h3, h7]
  case inr.inr.inr.inr.inr.inl =>
    by_cases h7 : fieldFunct7 w = 0#7
    · simp [h3, h7]
    · by_cases h7' : fieldFunct7 w = 0x20#7 <;> simp [h3, h7, h7']
  all_goals simp [h3]

/-- Every funct3 is listed under funct7 0000000 and 0000001. -/
theorem refused_iff_of_op (h : fieldOpcode w = 0x33#7) :
    Refused w ↔ fieldFunct7 w ∉ [0#7, 0x20#7, 1#7] ∨
      (fieldFunct7 w = 0x20#7 ∧ fieldFunct3 w ∉ [0#3, 5#3]) := by
  by_cases hbase : fieldFunct7 w = 0#7
  · rw [Refused, decodeWord_opBase h hbase, decodeOpBase]
    rcases funct3_cases (fieldFunct3 w) with h3 | h3 | h3 | h3 | h3 | h3 | h3 | h3 <;> simp [h3, hbase]
  by_cases halt : fieldFunct7 w = 0x20#7
  · rw [Refused, decodeWord_opAlternate h halt, decodeOpAlternate]
    rcases funct3_cases (fieldFunct3 w) with h3 | h3 | h3 | h3 | h3 | h3 | h3 | h3 <;> simp [h3, halt]
  by_cases hmul : fieldFunct7 w = 1#7
  · rw [Refused, decodeWord_opMulDiv h hmul, decodeOpMulDiv]
    rcases funct3_cases (fieldFunct3 w) with h3 | h3 | h3 | h3 | h3 | h3 | h3 | h3 <;> simp [h3, hmul]
  simp [Refused, decodeWord, decodeOp, h, hbase, halt, hmul]

theorem refused_iff_of_system (h : fieldOpcode w = 0x73#7) :
    Refused w ↔ w ∉ [0x00000073#32, 0x00100073#32] := by
  rw [Refused, decodeWord_system h, decodeSystem]
  by_cases hecall : w = 0x00000073#32
  · simp [hecall]
  · by_cases hebreak : w = 0x00100073#32 <;> simp [hecall, hebreak]

end

/-- Settles O4, by the major opcode: for each of the ten its own condition is the only one that can hold, and
under an unlisted one every word is refused. -/
theorem illegalWordsAreRefused : Obligations.IllegalWordsAreRefused := by
  intro w opcode funct3 funct7
  have hf3 : funct3 = fieldFunct3 w := rfl
  have hf7 : funct7 = fieldFunct7 w := rfl
  by_cases hlisted :
    opcode ∈ [0x37#7, 0x17#7, 0x6F#7, 0x67#7, 0x63#7, 0x03#7, 0x23#7, 0x13#7, 0x33#7, 0x73#7]
  case neg => exact iff_of_true (refused_of_unlisted_opcode hlisted) (.inl hlisted)
  case pos =>
    simp only [List.mem_cons, List.not_mem_nil, or_false] at hlisted
    rcases hlisted with h | h | h | h | h | h | h | h | h | h
    · exact iff_of_false (not_refused_of_decodes (decodeWord_lui h)) (by simp [h])
    · exact iff_of_false (not_refused_of_decodes (decodeWord_auipc h)) (by simp [h])
    · exact iff_of_false (not_refused_of_decodes (decodeWord_jal h)) (by simp [h])
    · exact (refused_iff_of_jalr h).trans (by simp [h, hf3])
    · exact (refused_iff_of_branch h).trans (by simp [h, hf3])
    · exact (refused_iff_of_load h).trans (by simp [h, hf3])
    · exact (refused_iff_of_store h).trans (by simp [h, hf3])
    · exact (refused_iff_of_opImm h).trans (by simp [h, hf3, hf7])
    · exact (refused_iff_of_op h).trans (by simp [h, hf3, hf7])
    · exact (refused_iff_of_system h).trans (by simp [h])

/-- Settles O5: each word is the encoding of the instruction it is said to decode to. -/
theorem sampleWordsDecode : Obligations.SampleWordsDecode :=
  ⟨decodeWord_of_encode_eq (by decide) rfl, decodeWord_of_encode_eq (by decide) rfl,
    decodeWord_of_encode_eq (by decide) rfl, decodeWord_of_encode_eq (by decide) rfl,
    decodeWord_of_encode_eq (by decide) rfl, decodeWord_of_encode_eq (by decide) rfl,
    decodeWord_of_encode_eq (by decide) rfl⟩

end Sys2Proof
end

section
/-! The bus (20_memory.md sections 2 to 7): where an aligned access ends, the device words, the value of a read
and of a stored byte as numbers, and the six obligations they settle. -/

namespace Sys2Proof.Machine

/-! ## Regions -/

/-- RAM_SIZE and RAM_BASE are multiples of every width, so an aligned access that starts in RAM ends in RAM. -/
theorem aligned_access_inside_ram {s : State} {a : Word} {n : Width} (h : s.inRam a = true)
    (ha : a.toNat % n.bytes = 0) : a.toNat + n.bytes ≤ 0x80000000 + s.ramSize := by
  obtain ⟨-, hlt⟩ := (inRam_iff s a).mp h
  cases n <;> simp only [Width.bytes, State.ramSize] at ha hlt ⊢ <;> omega

theorem window_eq_false {a : Word} (h : ¬ (0x10000000 ≤ a.toNat ∧ a.toNat < 0x1000000C)) :
    inDeviceWindow a = false := by
  rwa [← inDeviceWindow_iff, Bool.not_eq_true] at h

theorem inRam_eq_false {s : State} {a : Word}
    (h : ¬ (0x80000000 ≤ a.toNat ∧ a.toNat < 0x80000000 + s.ramSize)) : s.inRam a = false := by
  rwa [← inRam_iff, Bool.not_eq_true] at h

/-- The three device words and their channels (20_memory.md R46, R48). -/
theorem deviceChannel_eq_some_iff (a : Word) (c : Channel) :
    deviceChannel a = some c ↔
      (a, c) ∈ [(0x10000000#32, Channel.char), (0x10000004#32, .dec), (0x10000008#32, .hex)] := by
  constructor
  · intro h
    unfold deviceChannel at h
    split_ifs at h with hchar hdec hhex <;> cases h
    · rw [show a = 0x10000000#32 from BitVec.eq_of_toNat_eq hchar]; decide
    · rw [show a = 0x10000004#32 from BitVec.eq_of_toNat_eq hdec]; decide
    · rw [show a = 0x10000008#32 from BitVec.eq_of_toNat_eq hhex]; decide
  · simp only [List.mem_cons, Prod.mk.injEq, List.not_mem_nil, or_false]
    rintro (⟨rfl, rfl⟩ | ⟨rfl, rfl⟩ | ⟨rfl, rfl⟩) <;> decide

/-! ## Values as numbers -/

theorem toNat_byteOfWord (w : Word) (k : Nat) : (byteOfWord w k).toNat = w.toNat / 2 ^ (8 * k) % 256 := by
  rw [byteOfWord, BitVec.extractLsb'_toNat, Nat.shiftRight_eq_div_pow]

/-- Appending bits below is a multiplication and a sum. -/
theorem toNat_append_eq {m n : Nat} (x : BitVec m) (y : BitVec n) :
    (x ++ y).toNat = x.toNat * 2 ^ n + y.toNat := by
  rw [BitVec.toNat_append, ← Nat.shiftLeft_add_eq_or_of_lt y.isLt, Nat.shiftLeft_eq]

section
variable (s : State) (a : Nat)

theorem toNat_readRam_byte : (s.readRam a .byte).toNat = (s.ramByte a).toNat := by
  rw [State.readRam, BitVec.toNat_setWidth_of_le (by decide)]

theorem toNat_readRam_half :
    (s.readRam a .half).toNat = (s.ramByte (a + 1)).toNat * 256 + (s.ramByte a).toNat := by
  rw [State.readRam, BitVec.toNat_setWidth_of_le (by decide)]
  exact toNat_append_eq _ _

theorem toNat_readRam_word :
    (s.readRam a .word).toNat =
      (((s.ramByte (a + 3)).toNat * 256 + (s.ramByte (a + 2)).toNat) * 256 +
        (s.ramByte (a + 1)).toNat) * 256 + (s.ramByte a).toNat := by
  simp only [State.readRam, wordOfBytes, toNat_append_eq, Nat.reducePow]

/-- Byte k of the value read is the byte at a + k: the value is little-endian (20_memory.md R44). -/
theorem byteOfWord_readRam {n : Width} {k : Nat} (hk : k < n.bytes) :
    byteOfWord (s.readRam a n) k = s.ramByte (a + k) := by
  apply BitVec.eq_of_toNat_eq
  rw [toNat_byteOfWord]
  have hlt (b : Nat) : (s.ramByte b).toNat < 256 := (s.ramByte b).isLt
  have := hlt a; have := hlt (a + 1); have := hlt (a + 2); have := hlt (a + 3)
  cases n with
  | byte =>
    obtain rfl : k = 0 := Nat.lt_one_iff.mp hk
    rw [toNat_readRam_byte, Nat.add_zero a]
    omega
  | half =>
    have hk : k < 2 := hk
    rw [toNat_readRam_half]
    interval_cases k
    · rw [Nat.add_zero a]; omega
    · omega
  | word =>
    have hk : k < 4 := hk
    rw [toNat_readRam_word]
    interval_cases k
    · rw [Nat.add_zero a]; omega
    all_goals omega

/-- A read of n bytes is an n-byte value. -/
theorem toNat_readRam_lt (n : Width) : (s.readRam a n).toNat < 2 ^ (8 * n.bytes) := by
  have hlt (b : Nat) : (s.ramByte b).toNat < 256 := (s.ramByte b).isLt
  cases n with
  | byte => exact toNat_readRam_byte s a ▸ hlt a
  | half =>
    have := hlt a; have := hlt (a + 1)
    rw [toNat_readRam_half, Width.bytes]
    omega
  | word => exact (s.readRam a .word).isLt

end

/-- An n-byte value is its own truncation to n bytes. -/
theorem truncateTo_of_lt {v : Word} {n : Width} (h : v.toNat < 2 ^ (8 * n.bytes)) : truncateTo v n = v := by
  apply BitVec.eq_of_toNat_eq
  cases n with
  | byte =>
    have h : v.toNat < 256 := h
    simp only [truncateTo, BitVec.toNat_setWidth]
    omega
  | half =>
    have h : v.toNat < 65536 := h
    simp only [truncateTo, BitVec.toNat_setWidth]
    omega
  | word => rfl

/-- The bytes of a stored word, as numbers. -/
theorem toNat_ramByte_storeRam_word (s : State) (a : Nat) (v : Word) {k : Nat} (hk : k < 4) :
    ((s.storeRam a v .word).ramByte (a + k)).toNat = v.toNat / 2 ^ (8 * k) % 256 := by
  rw [ramByte_storeRam, if_pos ⟨Nat.le_add_right a k, Nat.add_lt_add_left hk a⟩, Nat.add_sub_cancel_left,
    toNat_byteOfWord]

/-- An aligned word's address plus an offset inside the word does not wrap around. -/
theorem toNat_add_ofNat {a : Word} (ha : a.toNat % 4 = 0) {k : Nat} (hk : k < 4) :
    (a + BitVec.ofNat 32 k).toNat = a.toNat + k := by
  have := a.isLt
  rw [BitVec.toNat_add, BitVec.toNat_ofNat]
  omega

/-- A read inside an aligned word that lies in RAM succeeds, if the offset is aligned too. -/
theorem busRead_inside_word {s : State} {a : Word} (hr : s.inRam a = true) (ha : a.toNat % 4 = 0)
    {k : Nat} {n : Width} (hk : k + n.bytes ≤ 4) (hkn : k % n.bytes = 0) :
    s.busRead (a + BitVec.ofNat 32 k) n = .ok (s.readRam (a.toNat + k) n) := by
  have hend := aligned_access_inside_ram (n := .word) hr ha
  obtain ⟨hlow, -⟩ := (inRam_iff s a).mp hr
  have hpos : 0 < n.bytes := by cases n <;> decide
  have hdvd : n.bytes ∣ 4 := by cases n <;> decide
  have haddr := toNat_add_ofNat ha (k := k) (by omega)
  rw [busRead_ram s ((inRam_iff s _).mpr ⟨by omega, ?_⟩) ?_, haddr]
  · simp only [Width.bytes] at hend
    omega
  · rw [haddr]
    exact Nat.mod_eq_zero_of_dvd
      (Nat.dvd_add (hdvd.trans (Nat.dvd_of_mod_eq_zero ha)) (Nat.dvd_of_mod_eq_zero hkn))

theorem fetch_of_busRead_ok {s : State} {w : Word} (h : s.busRead s.pc .word = .ok w) :
    s.fetch = some w := by
  simp only [State.fetch, h]

/-! ## The obligations -/

/-- Settles O25, clause by clause of the bus read, with the little-endian value of a read inside RAM. -/
theorem busReadDecodesTheAddress : Obligations.BusReadDecodesTheAddress := by
  intro s a n
  refine ⟨fun hw => ?window, fun hw hr => ?unmapped, fun hr hmis => ?misaligned, fun hr ha => ?aligned⟩
  case window => exact busRead_window s n ((inDeviceWindow_iff a).mpr hw)
  case unmapped => exact busRead_unmapped s n (window_eq_false hw) (inRam_eq_false hr)
  case misaligned => exact busRead_misaligned s ((inRam_iff s a).mpr hr) hmis
  case aligned =>
    have hin := (inRam_iff s a).mpr hr
    exact ⟨aligned_access_inside_ram hin ha, _, busRead_ram s hin ha,
      fun k hk => byteOfWord_readRam s a.toNat hk, toNat_readRam_lt s a.toNat n⟩

/-- Settles O26: the write stores into RAM, and the read gives the value truncated to its own width. -/
theorem ramRoundTrip : Obligations.RamRoundTrip := by
  intro s a n v hlow hhigh ha hv
  have hin := (inRam_iff s a).mpr ⟨hlow, hhigh⟩
  refine ⟨_, busWrite_ram s v hin ha, ?_⟩
  rw [busRead_ram (s.storeRam a.toNat v n) hin ha, readRam_storeRam, truncateTo_of_lt hv]

/-- Settles O27: each narrow read lies inside the stored word, and its value is a sum of the word's bytes. -/
theorem mixedWidthViewOfAWord : Obligations.MixedWidthViewOfAWord := by
  intro s a v hlow hhigh ha
  have hin := (inRam_iff s a).mpr ⟨hlow, hhigh⟩
  refine ⟨s.storeRam a.toNat v .word, busWrite_ram s v hin ha, fun k hk => ?byte, ?low, ?high⟩
  case byte =>
    rw [busRead_inside_word (s := s.storeRam a.toNat v .word) hin ha hk (Nat.mod_one k)]
    congr 1
    apply BitVec.eq_of_toNat_eq
    rw [toNat_readRam_byte, toNat_ramByte_storeRam_word s _ v hk, BitVec.toNat_ofNat]
    omega
  case low =>
    have hread := busRead_inside_word (s := s.storeRam a.toNat v .word) (k := 0) (n := .half) hin ha
      (by decide) (by decide)
    rw [show a + BitVec.ofNat 32 0 = a from BitVec.add_zero a] at hread
    rw [hread]
    congr 1
    apply BitVec.eq_of_toNat_eq
    rw [toNat_readRam_half, toNat_ramByte_storeRam_word s _ v (k := 0) (by decide),
      toNat_ramByte_storeRam_word s _ v (k := 1) (by decide), BitVec.toNat_ofNat]
    omega
  case high =>
    rw [show a + 2 = a + BitVec.ofNat 32 2 from rfl,
      busRead_inside_word (s := s.storeRam a.toNat v .word) (n := .half) hin ha (by decide) (by decide)]
    congr 1
    apply BitVec.eq_of_toNat_eq
    rw [toNat_readRam_half, toNat_ramByte_storeRam_word s _ v (k := 2) (by decide), Nat.add_assoc,
      toNat_ramByte_storeRam_word s _ v (k := 3) (by decide), BitVec.toNat_ofNat]
    have := v.isLt
    omega

/-- Settles O28: a write to a device word only emits, and a device word lies in the window, which reads 0. -/
theorem deviceWriteEmitsOnceAndReadsZero : Obligations.DeviceWriteEmitsOnceAndReadsZero := by
  intro s a c n m v hmem
  have hc := (deviceChannel_eq_some_iff a c).mpr hmem
  exact ⟨_, busWrite_device s n v hc, emit_output s c n v, sameRam_of_fields rfl rfl,
    busRead_window _ m (window_of_deviceChannel hc)⟩

/-- Settles O29: RAM ends at most at 2^32, so only the address past the end can wrap around, to 0, which is
outside RAM too. -/
theorem ramEdgeReads : Obligations.RamEdgeReads := by
  intro s ⟨hpos, hmax⟩
  have hmul : s.ramSize % 4 = 0 := Nat.mul_mod_right 4 s.ramWords
  have hlast : (BitVec.ofNat 32 (0x80000000 + s.ramSize - 4)).toNat = 0x80000000 + s.ramSize - 4 := by
    rw [BitVec.toNat_ofNat]; omega
  have htail : (BitVec.ofNat 32 (0x80000000 + s.ramSize - 2)).toNat = 0x80000000 + s.ramSize - 2 := by
    rw [BitVec.toNat_ofNat]; omega
  have hpast : (BitVec.ofNat 32 (0x80000000 + s.ramSize)).toNat = 0x80000000 + s.ramSize ∨
      (BitVec.ofNat 32 (0x80000000 + s.ramSize)).toNat = 0 := by
    rw [BitVec.toNat_ofNat]; omega
  refine ⟨⟨_, busRead_ram s ((inRam_iff s _).mpr ?_) ?_⟩, busRead_unmapped s _ (window_eq_false ?_)
    (inRam_eq_false ?_), busRead_misaligned s ((inRam_iff s _).mpr ?_) ?_, busRead_unmapped s _ (by decide)
    (inRam_eq_false (by simp))⟩
  · omega
  · rw [hlast, Width.bytes]; omega
  · omega
  · omega
  · omega
  · rw [htail, Width.bytes]; omega

/-- Settles O30: the fetch is a bus read of the stored word. -/
theorem storesAreSeenByTheFetch : Obligations.StoresAreSeenByTheFetch := by
  intro s a v hlow hhigh ha
  have hin := (inRam_iff s a).mpr ⟨hlow, hhigh⟩
  refine ⟨_, busWrite_ram s v hin ha, ?_⟩
  have hread : (s.storeRam a.toNat v .word).busRead a .word = .ok v := by
    rw [busRead_ram (s.storeRam a.toNat v .word) (n := .word) hin ha, readRam_storeRam, truncateTo]
  exact fetch_of_busRead_ok ((busRead_congr rfl rfl a .word).trans hread)

end Sys2Proof.Machine
end

section
/-! The stores (43_load_store.md R130, R137 to R140): the effective address as a number, the next state of a
store in each region of the address space, the value its event carries, and the four obligations they settle. -/

namespace Sys2Proof.Machine

/-! ## Effective addresses (R130) -/

/-- A base plus an extended offset, computed on the numbers and then taken modulo 2^32. -/
theorem add_sext_eq_ofInt {n : Nat} (a : Word) (f : BitVec n) :
    a + sext f = BitVec.ofInt 32 (a.toNat + f.toInt) := by
  rw [sext_eq_ofInt, BitVec.ofInt_add, BitVec.ofInt_natCast, BitVec.ofNat_toNat, BitVec.setWidth_eq]

/-- Settles O38: loads and stores add the same extended immediate to the base. -/
theorem effectiveAddresses : Obligations.EffectiveAddresses :=
  fun _ _ _ => ⟨add_sext_eq_ofInt _ _, add_sext_eq_ofInt _ _⟩

/-! ## The truncated value as a number (R137, R143) -/

theorem truncateTo_byte (v : Word) : truncateTo v .byte = BitVec.ofNat 32 (v.toNat % 256) :=
  (zext_eq_ofNat (v.setWidth 8)).trans (congrArg _ (BitVec.toNat_setWidth 8 v))

theorem truncateTo_half (v : Word) : truncateTo v .half = BitVec.ofNat 32 (v.toNat % 65536) :=
  (zext_eq_ofNat (v.setWidth 16)).trans (congrArg _ (BitVec.toNat_setWidth 16 v))

theorem truncateTo_word (v : Word) : truncateTo v .word = v := rfl

/-! ## The next state of a store, by where its address lies (R137) -/

section
variable {i : Instr} {rs2 rs1 : RegIdx} {imm : BitVec 12} {s : State} {n : Width}

theorem store_of_busWrite_some {t : State}
    (h : s.busWrite (s.storeAddress rs1 imm) n (truncateTo (s.readReg rs2) n) = some t) :
    s.store n rs2 rs1 imm = .next (t.commitPc (s.pc + 4)) := by
  simp only [State.store, h, State.pcPlus4]

theorem store_of_busWrite_none
    (h : s.busWrite (s.storeAddress rs1 imm) n (truncateTo (s.readReg rs2) n) = none) :
    s.store n rs2 rs1 imm = .next (s.takeStop (fatalMemStop .write (s.storeAddress rs1 imm) n s.pc)) := by
  simp only [State.store, h]

/-- A store to a device word emits its truncated value v. -/
theorem eventResult_of_store {c : Channel} {v : Word} (h : exec i s = s.store n rs2 rs1 imm)
    (hv : truncateTo (s.readReg rs2) n = v)
    (hc : (s.storeAddress rs1 imm, c) ∈
      [(0x10000000#32, Channel.char), (0x10000004#32, .dec), (0x10000008#32, .hex)]) :
    ∃ t, exec i s = .next t ∧ s.EventResult t ⟨c, n, v⟩ (s.pc + 4) := by
  refine ⟨_, ?_, eventResult_emit s c n v (s.pc + 4)⟩
  rw [h, store_of_busWrite_some (busWrite_device s n _ ((deviceChannel_eq_some_iff _ c).mpr hc)), hv]

/-- Storing the truncated value stores the low bytes of the register. -/
theorem storeResult_storeRam_truncateTo (s : State) (a : Nat) (v : Word) (n : Width) (p : Word) :
    s.StoreResult ((s.storeRam a (truncateTo v n) n).commitPc p) a n.bytes v p := by
  obtain ⟨hpc, hregs, hsize, hbytes, hframe⟩ := storeResult_storeRam s a (truncateTo v n) n p
  exact ⟨hpc, hregs, hsize, fun k hk => (hbytes k hk).trans (byteOfWord_truncateTo v hk), hframe⟩

/-- A store to an aligned address in RAM stores the low bytes of the register there. -/
theorem storeResult_of_store (h : exec i s = s.store n rs2 rs1 imm)
    (hr : 0x80000000 ≤ (s.storeAddress rs1 imm).toNat ∧
      (s.storeAddress rs1 imm).toNat < 0x80000000 + s.ramSize)
    (ha : (s.storeAddress rs1 imm).toNat % n.bytes = 0) :
    ∃ t, exec i s = .next t ∧
      s.StoreResult t (s.storeAddress rs1 imm).toNat n.bytes (s.readReg rs2) (s.pc + 4) := by
  refine ⟨_, ?_, storeResult_storeRam_truncateTo s _ _ n (s.pc + 4)⟩
  rw [h, store_of_busWrite_some (busWrite_ram s _ ((inRam_iff s _).mpr hr) ha)]

/-- A store elsewhere, or to a misaligned address in RAM, is fatal. -/
theorem stoppedWith_of_store (h : exec i s = s.store n rs2 rs1 imm)
    (hc : ∀ c, (s.storeAddress rs1 imm, c) ∉
      [(0x10000000#32, Channel.char), (0x10000004#32, .dec), (0x10000008#32, .hex)])
    (hr : ¬ (0x80000000 ≤ (s.storeAddress rs1 imm).toNat ∧
        (s.storeAddress rs1 imm).toNat < 0x80000000 + s.ramSize) ∨
      (s.storeAddress rs1 imm).toNat % n.bytes ≠ 0) :
    ∃ t, exec i s = .next t ∧
      s.StoppedWith t (fatalMemStop .write (s.storeAddress rs1 imm) n s.pc) := by
  have hnone : deviceChannel (s.storeAddress rs1 imm) = none :=
    Option.eq_none_iff_forall_ne_some.mpr fun c hc' => hc c ((deviceChannel_eq_some_iff _ c).mp hc')
  refine ⟨_, ?_, stoppedWith_takeStop s _⟩
  rw [h, store_of_busWrite_none (busWrite_fatal s _ hnone (hr.imp_left inRam_eq_false))]

end

/-! ## The store instructions -/

section
variable (rs2 rs1 : RegIdx) (imm : BitVec 12) (s : State)

theorem exec_sb : exec (.sb rs2 rs1 imm) s = s.store .byte rs2 rs1 imm := rfl

theorem exec_sh : exec (.sh rs2 rs1 imm) s = s.store .half rs2 rs1 imm := rfl

theorem exec_sw : exec (.sw rs2 rs1 imm) s = s.store .word rs2 rs1 imm := rfl

end

/-- Settles O42: the round trip of the S-format word, and the store's next state at a device word, in RAM
(where a byte is always aligned) and elsewhere. -/
theorem byteStore : Obligations.ByteStore := by
  intro rs2 rs1 imm s ea inRam devices
  exact ⟨Laws.RoundTrip.sb rs2 rs1 imm rfl,
    fun c hc => eventResult_of_store (exec_sb ..) (truncateTo_byte _) hc,
    fun hr => storeResult_of_store (exec_sb ..) hr (Nat.mod_one _),
    fun ⟨hc, hr⟩ => stoppedWith_of_store (exec_sb ..) hc (.inl hr)⟩

/-- Settles O43: the round trip of the S-format word, and the store's next state at a device word, in RAM at
even addresses and elsewhere. -/
theorem halfStore : Obligations.HalfStore := by
  intro rs2 rs1 imm s ea inRam devices
  exact ⟨Laws.RoundTrip.sh rs2 rs1 imm rfl,
    fun c hc => eventResult_of_store (exec_sh ..) (truncateTo_half _) hc,
    fun ⟨hr, heven⟩ => storeResult_of_store (exec_sh ..) hr heven,
    fun ⟨hc, hr⟩ => stoppedWith_of_store (exec_sh ..) hc hr⟩

/-- Settles O44: the round trip of the S-format word, and the store's next state at a device word, in RAM at
multiples of 4 and elsewhere. -/
theorem wordStore : Obligations.WordStore := by
  intro rs2 rs1 imm s ea inRam devices
  exact ⟨Laws.RoundTrip.sw rs2 rs1 imm rfl,
    fun c hc => eventResult_of_store (exec_sw ..) (truncateTo_word _) hc,
    fun ⟨hr, haligned⟩ => storeResult_of_store (exec_sw ..) hr haligned,
    fun ⟨hc, hr⟩ => stoppedWith_of_store (exec_sw ..) hc hr⟩

end Sys2Proof.Machine
end

section
/-! Jumps (42_control_transfer.md R110, R111), set-less-than (44_alu_immediate.md R151, R152, 45_alu_register.md
R173, R174) and arithmetic shifts (R158, R177): targets, comparisons and shifted bits in the terms of the
obligations, and the five obligations they settle. -/

namespace Sys2Proof.Machine

/-! ## Jumps -/

/-- An instruction whose meaning is to link and jump has a next state that differs from s in rd and pc
alone. -/
theorem registerResult_of_exec_eq_linkAndJump {i : Instr} {s : State} {rd : RegIdx} {target : Word}
    (h : exec i s = s.linkAndJump rd target) :
    ∃ t, exec i s = .next t ∧ s.RegisterResult t rd (s.pc + 4) target :=
  ⟨_, h.trans (linkAndJump_eq s rd target), registerResult_commit s rd (s.pc + 4) target⟩

/-- Clearing bit 0 rounds down to an even number. -/
theorem toNat_clear_bit_zero (x : Word) : (x &&& 0xFFFFFFFE#32).toNat = x.toNat / 2 * 2 := by
  have hmask : 0xFFFFFFFE#32 = BitVec.allOnes 32 <<< 1 := by decide
  have := x.isLt
  rw [hmask, ← BitVec.shiftLeft_ushiftRight, BitVec.toNat_shiftLeft, BitVec.toNat_ushiftRight,
    Nat.shiftLeft_eq, Nat.shiftRight_eq_div_pow]
  omega

section
variable (rd rs1 : RegIdx) (offset : BitVec 21) (imm : BitVec 12) (s : State)

theorem exec_jal : exec (.jal rd offset) s =
    s.linkAndJump rd (s.pc + BitVec.ofInt 32 offset.toInt) := rfl

theorem exec_jalr : exec (.jalr rd rs1 imm) s =
    s.linkAndJump rd ((s.readReg rs1 + BitVec.ofInt 32 imm.toInt) &&& 0xFFFFFFFE#32) := rfl

end

/-- Settles O33: the round trip of the J-format word of an even offset, and JAL's link and jump. -/
theorem jalLinksAndJumps : Obligations.JalLinksAndJumps := by
  intro rd offset s
  exact ⟨fun heven => Laws.RoundTrip.jal rd offset ((evenOffset_iff offset).mpr heven),
    registerResult_of_exec_eq_linkAndJump (exec_jal rd offset s)⟩

/-- Settles O34: the round trip of the I-format word, and JALR's link and jump to a target that was computed
from the registers before the link. -/
theorem jalrLinksAndJumpsToTheOldRegister : Obligations.JalrLinksAndJumpsToTheOldRegister := by
  intro rd rs1 imm s
  obtain ⟨t, hnext, hresult⟩ := registerResult_of_exec_eq_linkAndJump (exec_jalr rd rs1 imm s)
  exact ⟨Laws.RoundTrip.jalr rd rs1 imm rfl, t, _, hnext, hresult, toNat_clear_bit_zero _⟩

/-! ## Set less than -/

/-- Sign extension keeps the signed value. -/
theorem toInt_immI (imm : BitVec 12) : (immI imm).toInt = imm.toInt :=
  BitVec.toInt_signExtend_of_le (by decide)

/-- The extended immediate read as unsigned (R152). -/
theorem toNat_immI (imm : BitVec 12) : ((immI imm).toNat : Int) = imm.toInt % 4294967296 := by
  rw [immI, sext_eq_ofInt, BitVec.toNat_ofInt]
  exact Int.toNat_of_nonneg (Int.emod_nonneg _ (by decide))

theorem setLessThanSigned_eq (a b : Word) :
    setLessThanSigned a b = if a.toInt < b.toInt then 1 else 0 := by
  simp only [setLessThanSigned, wordOfBool, ltSigned, decide_eq_true_eq]

theorem setLessThanUnsigned_eq (a b : Word) :
    setLessThanUnsigned a b = if a.toNat < b.toNat then 1 else 0 := by
  simp only [setLessThanUnsigned, wordOfBool, ltUnsigned, decide_eq_true_eq]

section
variable (rd rs1 rs2 : RegIdx) (imm : BitVec 12) (s : State)

theorem exec_slti : exec (.slti rd rs1 imm) s =
    s.completeWith rd (setLessThanSigned (s.readReg rs1) (immI imm)) := rfl

theorem exec_sltiu : exec (.sltiu rd rs1 imm) s =
    s.completeWith rd (setLessThanUnsigned (s.readReg rs1) (immI imm)) := rfl

theorem exec_slt : exec (.slt rd rs1 rs2) s =
    s.completeWith rd (setLessThanSigned (s.readReg rs1) (s.readReg rs2)) := rfl

theorem exec_sltu : exec (.sltu rd rs1 rs2) s =
    s.completeWith rd (setLessThanUnsigned (s.readReg rs1) (s.readReg rs2)) := rfl

end

/-- Settles O46: the round trips of the two I-format words, and the comparisons with the extended immediate
read signed and unsigned. -/
theorem setLessThanImmediate : Obligations.SetLessThanImmediate := by
  intro rd rs1 imm s
  refine ⟨Laws.RoundTrip.slti rd rs1 imm rfl, Laws.RoundTrip.sltiu rd rs1 imm rfl,
    registerResult_of_exec_eq_completeWith ?slti, registerResult_of_exec_eq_completeWith ?sltiu⟩
  case slti => rw [exec_slti, setLessThanSigned_eq, toInt_immI]
  case sltiu =>
    rw [exec_sltiu, setLessThanUnsigned_eq, ← toNat_immI]
    simp only [Nat.cast_lt]

/-- Settles O52: the round trips of the two R-format words, and the signed and unsigned comparisons. -/
theorem setLessThanRegister : Obligations.SetLessThanRegister := by
  intro rd rs1 rs2 s a b
  refine ⟨Laws.RoundTrip.slt rd rs1 rs2 rfl, Laws.RoundTrip.sltu rd rs1 rs2 rfl,
    registerResult_of_exec_eq_completeWith ?slt, registerResult_of_exec_eq_completeWith ?sltu⟩
  case slt => rw [exec_slt, setLessThanSigned_eq]
  case sltu => rw [exec_sltu, setLessThanUnsigned_eq]

/-! ## Arithmetic shifts -/

/-- The bits above bit 31 of a read as its bit 31. -/
theorem getLsbD_shiftRightArithmetic (a : Word) (k : BitVec 5) {j : Nat} (hj : j < 32) :
    (shiftRightArithmetic a k).getLsbD j =
      if j + k.toNat < 32 then a.getLsbD (j + k.toNat) else a.getLsbD 31 := by
  rw [shiftRightArithmetic, BitVec.getLsbD_sshiftRight, decide_eq_false (not_le.mpr hj), Bool.not_false,
    Bool.true_and, Nat.add_comm, BitVec.msb_eq_getLsbD_last]

section
variable (rd rs1 rs2 : RegIdx) (shamt : BitVec 5) (s : State)

theorem exec_srai : exec (.srai rd rs1 shamt) s =
    s.completeWith rd (shiftRightArithmetic (s.readReg rs1) shamt) := rfl

theorem exec_sra : exec (.sra rd rs1 rs2) s =
    s.completeWith rd (shiftRightArithmetic (s.readReg rs1) (shiftAmount (s.readReg rs2))) := rfl

end

/-- Settles O51: the round trips of the I-shift and the R-format word, and the bits of each shift. -/
theorem arithmeticShifts : Obligations.ArithmeticShifts := by
  intro rd rs1 rs2 shamt s a k
  have hk : (shiftAmount (s.readReg rs2)).toNat = k := toNat_shiftAmount _
  refine ⟨Laws.RoundTrip.srai rd rs1 shamt rfl, Laws.RoundTrip.sra rd rs1 rs2 rfl,
    bitwiseResult_of_exec_eq_completeWith (exec_srai rd rs1 shamt s) fun j hj => ?srai,
    bitwiseResult_of_exec_eq_completeWith (exec_sra rd rs1 rs2 s) fun j hj => ?sra⟩
  case srai => exact getLsbD_shiftRightArithmetic a shamt hj
  case sra => rw [getLsbD_shiftRightArithmetic _ _ hj, hk]

end Sys2Proof.Machine
end
section
/-! High products (46_muldiv.md R191 to R193) and signed division (R194, R196): the high half of an exact
product, quotients and remainders as truncated integer division, and the three obligations they settle. -/

namespace Sys2Proof.Machine

/-! ## The high half of a product -/

/-- The high half of a 64-bit pattern. -/
theorem toNat_productHigh (p : Int) :
    (productHigh p).toNat = (p % 18446744073709551616).toNat / 4294967296 := by
  rw [productHigh, BitVec.extractLsb'_toNat, BitVec.toNat_ofInt, Nat.shiftRight_eq_div_pow]
  omega

/-- The high half of a product that fits 64 signed bits, as a signed value. -/
theorem toInt_productHigh {p : Int} (hp : |p| < 2 ^ 63) : (productHigh p).toInt = p / 4294967296 := by
  obtain ⟨hlow, hhigh⟩ := abs_lt.mp hp
  rw [BitVec.toInt_eq_toNat_cond, toNat_productHigh]
  split <;> omega

/-- The high half of a product that fits 64 unsigned bits. -/
theorem toNat_productHigh_natCast {p : Nat} (hp : p < 2 ^ 64) :
    (productHigh p).toNat = p / 4294967296 := by
  rw [toNat_productHigh]
  omega

theorem abs_toInt_le (a : Word) : |a.toInt| ≤ 2 ^ 31 :=
  abs_le.mpr ⟨a.le_toInt, le_of_lt a.toInt_lt⟩

/-- A signed word times a signed or unsigned word fits 64 signed bits. -/
theorem abs_mul_lt {x y : Int} (hx : |x| ≤ 2 ^ 31) (hy : |y| < 2 ^ 32) : |x * y| < 2 ^ 63 := by
  rw [abs_mul]
  calc |x| * |y| ≤ 2 ^ 31 * |y| := by gcongr
    _ < 2 ^ 31 * 2 ^ 32 := by gcongr
    _ = 2 ^ 63 := by norm_num

section
variable (a b : Word)

theorem toInt_mulHighSigned : (mulHighSigned a b).toInt = a.toInt * b.toInt / 4294967296 :=
  toInt_productHigh (abs_mul_lt (abs_toInt_le a) ((abs_toInt_le b).trans_lt (by norm_num)))

theorem toInt_mulHighSignedUnsigned :
    (mulHighSignedUnsigned a b).toInt = a.toInt * b.toNat / 4294967296 := by
  have hb : |(b.toNat : Int)| < 2 ^ 32 := by
    rw [Nat.abs_cast]
    exact_mod_cast b.isLt
  exact toInt_productHigh (abs_mul_lt (abs_toInt_le a) hb)

theorem toNat_mulHighUnsigned : (mulHighUnsigned a b).toNat = a.toNat * b.toNat / 4294967296 := by
  rw [mulHighUnsigned, ← Nat.cast_mul]
  refine toNat_productHigh_natCast ?_
  calc a.toNat * b.toNat < 2 ^ 32 * 2 ^ 32 := Nat.mul_lt_mul'' a.isLt b.isLt
    _ = 2 ^ 64 := by norm_num

end

section
variable (rd rs1 rs2 : RegIdx) (s : State)

theorem exec_mulh : exec (.mulh rd rs1 rs2) s =
    s.completeWith rd (mulHighSigned (s.readReg rs1) (s.readReg rs2)) := rfl

theorem exec_mulhsu : exec (.mulhsu rd rs1 rs2) s =
    s.completeWith rd (mulHighSignedUnsigned (s.readReg rs1) (s.readReg rs2)) := rfl

theorem exec_mulhu : exec (.mulhu rd rs1 rs2) s =
    s.completeWith rd (mulHighUnsigned (s.readReg rs1) (s.readReg rs2)) := rfl

theorem exec_div : exec (.div rd rs1 rs2) s =
    s.completeWith rd (divSigned (s.readReg rs1) (s.readReg rs2)) := rfl

theorem exec_rem : exec (.rem rd rs1 rs2) s =
    s.completeWith rd (remSigned (s.readReg rs1) (s.readReg rs2)) := rfl

end

/-- Settles O55: the round trips of the three R-format words, and the high halves as numbers. -/
theorem multiplyHigh : Obligations.MultiplyHigh := by
  intro rd rs1 rs2 s a b
  exact ⟨Laws.RoundTrip.mulh rd rs1 rs2 rfl, Laws.RoundTrip.mulhsu rd rs1 rs2 rfl,
    Laws.RoundTrip.mulhu rd rs1 rs2 rfl,
    resultWith_of_exec_eq_completeWith (exec_mulh rd rs1 rs2 s) (toInt_mulHighSigned a b),
    resultWith_of_exec_eq_completeWith (exec_mulhsu rd rs1 rs2 s) (toInt_mulHighSignedUnsigned a b),
    resultWith_of_exec_eq_completeWith (exec_mulhu rd rs1 rs2 s) (toNat_mulHighUnsigned a b)⟩

/-! ## Signed quotients and remainders -/

/-- The model's quotient is integer division that truncates toward zero. -/
theorem quotientTowardZero_eq_tdiv (x y : Int) : quotientTowardZero x y = x.tdiv y := by
  rw [← Int.sign_mul_natAbs (x.tdiv y), Int.sign_tdiv, Int.natAbs_tdiv, quotientTowardZero]
  split
  case isTrue hlt => rw [Nat.div_eq_of_lt hlt, Int.zero_mul, Nat.cast_zero, Int.mul_zero]
  case isFalse => rfl

/-- Overflow is the division of -2^31 by -1. -/
theorem divisionOverflows_iff (a b : Word) :
    divisionOverflows a b = true ↔ a.toInt = -2147483648 ∧ b.toInt = -1 := by
  rw [divisionOverflows, Bool.and_eq_true, beq_iff_eq, beq_iff_eq, ← BitVec.toInt_inj, ← BitVec.toInt_inj]
  rfl

theorem toInt_eq_zero_iff (b : Word) : b.toInt = 0 ↔ b = 0 := by
  rw [← BitVec.toInt_inj]
  rfl

/-- Only -2^31 by -1 has a quotient outside the signed range: a divisor other than 1 and -1 at least halves the
dividend. -/
theorem tdiv_in_signed_range {x y : Int} (hlow : -2 ^ 31 ≤ x) (hhigh : x < 2 ^ 31) (hy : y ≠ 0)
    (h : ¬ (x = -2147483648 ∧ y = -1)) : -2 ^ 31 ≤ x.tdiv y ∧ x.tdiv y < 2 ^ 31 := by
  rcases eq_or_ne y 1 with rfl | hone
  · rw [Int.tdiv_one]
    exact ⟨hlow, hhigh⟩
  rcases eq_or_ne y (-1) with rfl | hneg
  · rw [Int.tdiv_neg, Int.tdiv_one]
    omega
  · have hquot : (x.tdiv y).natAbs = x.natAbs / y.natAbs := Int.natAbs_tdiv x y
    have hhalf : x.natAbs / y.natAbs ≤ x.natAbs / 2 := Nat.div_le_div_left (by omega) (by decide)
    omega

section
variable {a b : Word}

/-- Every nonzero divisor gives the truncated quotient modulo 2^32, overflow included. -/
theorem divSigned_eq_ofInt (hb : b ≠ 0) : divSigned a b = BitVec.ofInt 32 (a.toInt.tdiv b.toInt) := by
  rw [divSigned, if_neg hb, quotientTowardZero_eq_tdiv]
  split
  case isTrue hover =>
    obtain ⟨ha, hb⟩ := (divisionOverflows_iff a b).mp hover
    rw [ha, hb]
    decide
  case isFalse => rfl

/-- Every nonzero divisor gives the remainder of the truncated quotient, overflow included. -/
theorem remSigned_eq_ofInt (hb : b ≠ 0) : remSigned a b = BitVec.ofInt 32 (a.toInt.tmod b.toInt) := by
  rw [remSigned, if_neg hb, quotientTowardZero_eq_tdiv, ← Int.tmod_def]
  split
  case isTrue hover =>
    obtain ⟨ha, hb⟩ := (divisionOverflows_iff a b).mp hover
    rw [ha, hb]
    decide
  case isFalse => rfl

theorem toInt_divSigned (hb : b ≠ 0) (h : ¬ (a.toInt = -2147483648 ∧ b.toInt = -1)) :
    (divSigned a b).toInt = a.toInt.tdiv b.toInt := by
  have hlow := a.le_toInt
  have hhigh := a.toInt_lt
  obtain ⟨hqlow, hqhigh⟩ := tdiv_in_signed_range hlow hhigh (mt (toInt_eq_zero_iff b).mp hb) h
  rw [divSigned_eq_ofInt hb]
  exact BitVec.toInt_ofInt_eq_self (by decide) hqlow hqhigh

/-- A remainder is smaller than the divisor, so it is in the signed range. -/
theorem toInt_remSigned (hb : b ≠ 0) : (remSigned a b).toInt = a.toInt.tmod b.toInt := by
  have hzero := mt (toInt_eq_zero_iff b).mp hb
  have hrem : (a.toInt.tmod b.toInt).natAbs < b.toInt.natAbs := by
    rw [Int.natAbs_tmod]
    exact Nat.mod_lt _ (Int.natAbs_pos.mpr hzero)
  have hlow := b.le_toInt
  have hhigh := b.toInt_lt
  rw [remSigned_eq_ofInt hb]
  exact BitVec.toInt_ofInt_eq_self (by decide) (by omega) (by omega)

end

/-- Settles O57: the round trips of the two R-format words, and DIV and REM by a zero divisor, on overflow and
otherwise. -/
theorem signedDivision : Obligations.SignedDivision := by
  intro rd rs1 rs2 s a b
  obtain ⟨t, hdiv, ht⟩ := registerResult_of_exec_eq_completeWith (exec_div rd rs1 rs2 s)
  obtain ⟨u, hrem, hu⟩ := registerResult_of_exec_eq_completeWith (exec_rem rd rs1 rs2 s)
  refine ⟨Laws.RoundTrip.div rd rs1 rs2 rfl, Laws.RoundTrip.rem rd rs1 rs2 rfl,
    t, u, divSigned a b, remSigned a b, hdiv, ht, hrem, hu, fun hzero => ?zero, fun hover => ?overflow,
    fun ⟨hne, hfits⟩ => ?rest⟩
  case zero =>
    have hb := (toInt_eq_zero_iff b).mp hzero
    exact ⟨if_pos hb, if_pos hb⟩
  case overflow =>
    have hb : b ≠ 0 := mt (toInt_eq_zero_iff b).mpr (by rw [hover.2]; decide)
    have hover' := (divisionOverflows_iff a b).mpr hover
    rw [divSigned, remSigned, if_neg hb, if_neg hb, if_pos hover', if_pos hover']
    exact ⟨rfl, rfl⟩
  case rest =>
    have hb : b ≠ 0 := mt (toInt_eq_zero_iff b).mpr hne
    exact ⟨toInt_divSigned hb hfits, toInt_remSigned hb⟩

/-- Settles O58: the division law of the integers taken modulo 2^32, and the size and the sign of a remainder
of truncated division. -/
theorem divisionLaw : Obligations.DivisionLaw := by
  intro a b hb
  refine ⟨?law, ?size, ?sign⟩
  case law =>
    calc a = BitVec.ofInt 32 (a.toInt.tdiv b.toInt * b.toInt + a.toInt.tmod b.toInt) := by
          rw [Int.tdiv_mul_add_tmod, BitVec.ofInt_toInt]
      _ = divSigned a b * b + remSigned a b := by
          rw [BitVec.ofInt_add, BitVec.ofInt_mul, BitVec.ofInt_toInt, divSigned_eq_ofInt hb,
            remSigned_eq_ofInt hb]
  case size =>
    rw [toInt_remSigned hb, Int.natAbs_tmod]
    exact Nat.mod_lt _ (Int.natAbs_pos.mpr (mt (toInt_eq_zero_iff b).mp hb))
  case sign =>
    rw [← toInt_eq_zero_iff, toInt_remSigned hb, Int.sign_tmod]
    by_cases hdvd : b.toInt ∣ a.toInt
    · exact .inl (Int.tmod_eq_zero_of_dvd hdvd)
    · exact .inr (if_neg hdvd)

end Sys2Proof.Machine
end

section
/-! The image load and the construction (20_memory.md R60, 70_reset_and_hazards.md R250): what a booted core is,
and the four obligations it settles. -/

namespace Sys2Proof.Machine

/-- A running core satisfies the invariant when its RAM and its stop status do. -/
theorem inv_of_running {s : State} (hsize : s.RamSizeAdmissible) (hram : s.RamWellFormed)
    (hrun : s.halted = false) (hstop : s.stop = StopStatus.whileRunning) : s.Inv :=
  ⟨hsize, hram, fun _ => hstop, fun hhalt => by rw [hrun] at hhalt; cases hhalt⟩

theorem boot_eq_none {ramWords : Nat} {bytes : List Byte} (h : 4 * ramWords < bytes.length)
    (regInit : Vector Word 31) (ciInit : Word) : boot ramWords bytes regInit ciInit = none := by
  simp only [boot, loadImage, if_pos h]

theorem boot_eq_some {ramWords : Nat} {bytes : List Byte} (h : bytes.length ≤ 4 * ramWords)
    (regInit : Vector Word 31) (ciInit : Word) :
    boot ramWords bytes regInit ciInit =
      some (construct ramWords (Memory.writeBytes [] Config.ramBase bytes) regInit ciInit) := by
  simp only [boot, loadImage, if_neg (not_lt.mpr h)]

/-- A RAM byte after an image load into fresh RAM: the image byte of its offset, or RAM_INIT. -/
theorem ramByte_construct_writeBytes (ramWords : Nat) (bytes : List Byte) (regInit : Vector Word 31)
    (ciInit : Word) (k : Nat) :
    (construct ramWords (Memory.writeBytes [] Config.ramBase bytes) regInit ciInit).ramByte
      (0x80000000 + k) = if h : k < bytes.length then bytes[k] else Config.ramInit k := by
  simp only [State.ramByte, construct, lookup_writeBytes, Config.ramBase, Nat.add_sub_cancel_left]
  by_cases hk : k < bytes.length
  · rw [dif_pos ⟨by omega, by omega⟩, dif_pos hk, Option.getD_some]
  · rw [dif_neg (by omega), dif_neg hk]
    rfl

/-- Settles O6: the register and RAM clauses hold because the reset state stores 0 in every register and lists
no RAM byte. -/
theorem resetStateValues : Obligations.ResetStateValues := by
  refine ⟨rfl, rfl, rfl, fun r => ?regs, rfl, rfl, fun k => ?ram, rfl⟩
  case regs =>
    unfold State.readReg State.reset
    split
    case isTrue => rfl
    case isFalse => exact Vector.getElem_replicate ..
  case ram => rw [State.ramByte, Nat.add_sub_cancel_left]; rfl

/-- Settles O7: an image that fits is written from RAM_BASE into fresh RAM. -/
theorem bootLoadsTheImage : Obligations.BootLoadsTheImage := by
  intro ramWords bytes regInit ciInit
  refine ⟨fun hlong => boot_eq_none hlong regInit ciInit, fun hfits =>
    ⟨_, boot_eq_some hfits regInit ciInit, rfl, rfl, rfl, rfl, rfl, rfl, rfl,
      fun r => readReg_ofNat_succ _ r, fun k => ?image, fun k hk => ?above⟩⟩
  case image => rw [ramByte_construct_writeBytes, dif_pos k.isLt]; rfl
  case above => rw [ramByte_construct_writeBytes, dif_neg (not_lt.mpr hk)]

/-- Settles O8: an image load into fresh RAM lists, in order, only addresses of image bytes, which lie in RAM. -/
theorem bootedStatesSatisfyInv : Obligations.BootedStatesSatisfyInv := by
  intro ramWords bytes regInit ciInit s hpos hmax hboot
  by_cases hlong : 4 * ramWords < bytes.length
  · rw [boot_eq_none hlong] at hboot
    cases hboot
  have hfits := not_lt.mp hlong
  obtain rfl := Option.some.inj ((boot_eq_some hfits regInit ciInit).symm.trans hboot)
  refine inv_of_running ⟨Nat.mul_pos (by decide) hpos, Nat.mul_le_mul_left 4 hmax⟩
    ⟨wf_writeBytes .nil _ _, fun c hc => ?_⟩ rfl rfl
  rcases mem_writeBytes hc with ⟨hlow, hhigh⟩ | hnil
  · exact ⟨hlow, hhigh.trans_le (Nat.add_le_add_left hfits _)⟩
  · cases hnil

/-- Settles O9: the reset state lists no RAM byte. -/
theorem resetSatisfiesInv : Obligations.ResetSatisfiesInv :=
  inv_of_running ⟨by decide, by decide⟩ ⟨.nil, fun _ hc => nomatch hc⟩ rfl rfl

end Sys2Proof.Machine
end
section
/-! One step (40_execution_cycle.md section 1) and runs (section 2): what a step of a running core can do, what
its next state keeps, the stop status it leaves, and the obligations about stops, fetches, events and the
invariant that follow. -/

namespace Sys2Proof.Machine

/-! ## What an instruction's next state keeps -/

section
variable {i : Instr} {s t : State}

theorem currentInstruction_of_effect (h : ExecEffect i s t) :
    t.currentInstruction = s.currentInstruction := by
  cases h <;> simp

theorem ramWords_of_effect (h : ExecEffect i s t) : t.ramWords = s.ramWords := by
  cases h <;> simp

/-- An instruction that does not halt the core leaves the stop status. -/
theorem stop_of_effect (h : ExecEffect i s t) (ht : t.halted = false) : t.stop = s.stop := by
  cases h with
  | commit rd v n => exact commit_stop s rd v n
  | commitPc n => rfl
  | storeRam a v n hi ha ha' => rfl
  | emit c n v hi => rfl
  | misaligned a n hi hr => cases ht
  | fatalRead a n hi hr => cases ht
  | fatalWrite a n hi hw => cases ht
  | ebreak hi => cases ht

theorem ramWellFormed_congr (hw : t.ramWords = s.ramWords) (hr : t.ram = s.ram) (h : s.RamWellFormed) :
    t.RamWellFormed := by
  rw [State.RamWellFormed, ramSize_congr hw, hr]
  exact h

/-- A store at an aligned RAM address lists only bytes inside RAM. -/
theorem ramWellFormed_storeRam {a : Word} {v : Word} {n : Width} (hs : s.RamWellFormed)
    (hr : s.inRam a = true) (ha : a.toNat % n.bytes = 0) : (s.storeRam a.toNat v n).RamWellFormed := by
  obtain ⟨hwf, hmem⟩ := hs
  refine ⟨wf_store hwf _ v n, fun c hc => ?_⟩
  rcases mem_store hc with ⟨hlow, hhigh⟩ | hold
  · exact ⟨((inRam_iff s a).mp hr).1.trans hlow, hhigh.trans_le (aligned_access_inside_ram hr ha)⟩
  · exact hmem c hold

theorem ramWellFormed_of_effect (h : ExecEffect i s t) (hs : s.RamWellFormed) : t.RamWellFormed := by
  cases h with
  | commit rd v n => exact ramWellFormed_congr (commit_ramWords s rd v n) (commit_ram s rd v n) hs
  | storeRam a v n hi ha ha' => exact ramWellFormed_congr rfl rfl (ramWellFormed_storeRam hs ha ha')
  | commitPc n => exact ramWellFormed_congr rfl rfl hs
  | emit c n v hi => exact ramWellFormed_congr rfl rfl hs
  | misaligned a n hi hr => exact ramWellFormed_congr rfl rfl hs
  | fatalRead a n hi hr => exact ramWellFormed_congr rfl rfl hs
  | fatalWrite a n hi hw => exact ramWellFormed_congr rfl rfl hs
  | ebreak hi => exact ramWellFormed_congr rfl rfl hs

/-! ## Stops are consistent with the state they leave -/

/-- Whether a write is fatal depends on the address and on RAM_SIZE alone. -/
theorem busWrite_eq_none_of_ramWords {a : Word} {n : Width} {v : Word} (hw : t.ramWords = s.ramWords)
    (h : s.busWrite a n v = none) : t.busWrite a n v = none := by
  rcases busWrite_cases t a n v with ⟨c, hc, -⟩ | ⟨hr, ha, -⟩ | ⟨-, -, hnone⟩
  · rw [busWrite_device s n v hc] at h
    cases h
  · rw [busWrite_ram s v ((inRam_congr hw a).symm.trans hr) ha] at h
    cases h
  · exact hnone v

/-- A stop that an instruction takes has the payload of its cause and agrees with the access that failed. -/
theorem stopConsistent_of_effect (hs : s.halted = false) (h : ExecEffect i s t) (ht : t.halted = true) :
    t.StopConsistent := by
  cases h with
  | commit rd v n => simp [hs] at ht
  | commitPc n => simp [hs] at ht
  | storeRam a v n hi ha ha' => simp [hs] at ht
  | emit c n v hi => simp [hs] at ht
  | misaligned a n hi hr =>
    show ∃ m, _ ∧ _
    exact ⟨n, rfl, (busRead_congr rfl rfl a n).trans hr⟩
  | fatalRead a n hi hr =>
    show ∃ m, _ ∨ _
    exact ⟨n, .inl ⟨rfl, (busRead_congr rfl rfl a n).trans hr⟩⟩
  | fatalWrite a n hi hw =>
    show ∃ m, _ ∨ _
    exact ⟨n, .inr ⟨rfl, fun v => busWrite_eq_none_of_ramWords (s := s) (a := a) rfl (hw v)⟩⟩
  | ebreak hi => exact ⟨rfl, rfl⟩

end

/-! ## What a step of a running core can do -/

section
variable {s t : State}

/-- All a step of a running core can do, when its next state is t. -/
theorem running_step_cases (hs : s.halted = false) (h : step s = .next t) :
    (s.fetch = none ∧ t = s.takeStop (fetchFaultStop s.pc)) ∨
    (∃ w e, s.fetch = some w ∧ decodeWord w = .error e ∧
      t = (s.recordFetch w).takeStop (decodeFaultStop w s.pc)) ∨
    (∃ w i, s.fetch = some w ∧ decodeWord w = .ok i ∧ exec i (s.recordFetch w) = .next t) := by
  rcases step_cases s with ⟨hh, -⟩ | ⟨-, hf, e⟩ | ⟨w, err, -, hf, hd, e⟩ | ⟨w, i, -, hf, hd, e⟩
  · rw [hs] at hh
    cases hh
  · rw [e] at h
    cases h
    exact .inl ⟨hf, rfl⟩
  · rw [e] at h
    cases h
    exact .inr (.inl ⟨w, err, hf, hd, rfl⟩)
  · exact .inr (.inr ⟨w, i, hf, hd, e ▸ h⟩)

/-- A step that halts a running core leaves a consistent stop status. -/
theorem stopConsistent_of_step (hs : s.halted = false) (h : step s = .next t) (ht : t.halted = true) :
    t.StopConsistent := by
  rcases running_step_cases hs h with ⟨hf, rfl⟩ | ⟨w, e, -, hd, rfl⟩ | ⟨w, i, -, -, he⟩
  · exact ⟨rfl, (fetch_congr rfl rfl rfl).trans hf⟩
  · exact ⟨rfl, e, hd⟩
  · exact stopConsistent_of_effect (s := s.recordFetch w) hs (effect_of_exec he) ht

theorem ramWords_of_step (hs : s.halted = false) (h : step s = .next t) : t.ramWords = s.ramWords := by
  rcases running_step_cases hs h with ⟨-, rfl⟩ | ⟨w, e, -, -, rfl⟩ | ⟨w, i, -, -, he⟩
  · rfl
  · rfl
  · exact ramWords_of_effect (s := s.recordFetch w) (effect_of_exec he)

theorem ramWellFormed_of_step (hs : s.halted = false) (h : step s = .next t) (hram : s.RamWellFormed) :
    t.RamWellFormed := by
  rcases running_step_cases hs h with ⟨-, rfl⟩ | ⟨w, e, -, -, rfl⟩ | ⟨w, i, -, -, he⟩
  · exact ramWellFormed_congr rfl rfl hram
  · exact ramWellFormed_congr rfl rfl hram
  · exact ramWellFormed_of_effect (effect_of_exec he) (ramWellFormed_congr (s := s) rfl rfl hram)

/-- A step that does not halt the core leaves the stop status. -/
theorem stop_of_step (hs : s.halted = false) (h : step s = .next t) (ht : t.halted = false) :
    t.stop = s.stop := by
  rcases running_step_cases hs h with ⟨-, rfl⟩ | ⟨w, e, -, -, rfl⟩ | ⟨w, i, -, -, he⟩
  · cases ht
  · cases ht
  · exact stop_of_effect (s := s.recordFetch w) (effect_of_exec he) ht

end

/-- Settles O10: a halted core does not change; a running one keeps RAM_SIZE and the form of RAM, and its step
either leaves the stop status or takes a consistent stop. -/
theorem stepKeepsInv : Obligations.StepKeepsInv := by
  intro s t hinv h
  cases hs : s.halted with
  | true =>
    rw [step_halted hs] at h
    cases h
    exact hinv
  | false =>
    obtain ⟨hsize, hram, hrun, -⟩ := hinv
    refine ⟨?size, ramWellFormed_of_step hs h hram, fun ht => (stop_of_step hs h ht).trans (hrun hs),
      stopConsistent_of_step hs h⟩
    rw [State.RamSizeAdmissible, ramSize_congr (ramWords_of_step hs h)]
    exact hsize

/-! ## Steps and runs always have a next state, and a halted core keeps its own -/

theorem exists_step (s : State) : ∃ t, step s = .next t := by
  rcases step_cases s with ⟨-, e⟩ | ⟨-, -, e⟩ | ⟨w, err, -, -, -, e⟩ | ⟨w, i, -, -, -, e⟩
  · exact ⟨_, e⟩
  · exact ⟨_, e⟩
  · exact ⟨_, e⟩
  · obtain ⟨t, ht, -⟩ := exec_effect i (s.recordFetch w)
    exact ⟨t, e.trans ht⟩

/-- Settles O12, by the cases of a step. -/
theorem stepAlwaysHasANextState : Obligations.StepAlwaysHasANextState := exists_step

theorem run_halted {s : State} (h : s.halted = true) (k : Nat) : run k s = .next s := by
  cases k with
  | zero => rfl
  | succ k => exact if_pos h

theorem run_succ_of_step {s t : State} (hs : s.halted = false) (h : step s = .next t) (k : Nat) :
    run (k + 1) s = run k t := by
  simp only [run, hs, h, Bool.false_eq_true, if_false]

/-- Settles O13: neither a step nor a run begins on a halted core. -/
theorem haltedCoreNeverChanges : Obligations.HaltedCoreNeverChanges :=
  fun _ hs => ⟨step_halted hs, run_halted hs⟩

/-- Settles O14, by induction on the budget: with none left the core has halted, and it stays as it is. -/
theorem runEndsAtTheHalt : Obligations.RunEndsAtTheHalt := by
  intro s t k j hrun ht
  induction k generalizing s with
  | zero =>
    cases hrun
    exact run_halted ht _
  | succ k ih =>
    cases hs : s.halted with
    | true => rw [run_halted hs, ← hrun, run_halted hs]
    | false =>
      obtain ⟨u, hu⟩ := exists_step s
      rw [Nat.succ_add, run_succ_of_step hs hu]
      exact ih u (run_succ_of_step hs hu k ▸ hrun)

/-! ## The fetch -/

section
variable {s : State}

theorem fetch_of_window (h : inDeviceWindow s.pc = true) : s.fetch = some 0 :=
  fetch_of_busRead_ok (busRead_window s .word h)

theorem fetch_of_ram (h : s.inRam s.pc = true) (ha : s.pc.toNat % 4 = 0) :
    s.fetch = some (s.readRam s.pc.toNat .word) :=
  fetch_of_busRead_ok (busRead_ram s h ha)

theorem fetch_eq_none (hw : inDeviceWindow s.pc = false) (h : s.inRam s.pc = false ∨ s.pc.toNat % 4 ≠ 0) :
    s.fetch = none := by
  rcases fetch_cases s with ⟨hw', -⟩ | ⟨-, -, e⟩ | ⟨hr, ha, -⟩
  · rw [hw] at hw'
    cases hw'
  · exact e
  · rcases h with h | h
    · rw [h] at hr
      cases hr
    · exact absurd ha h

/-- The word 0, which the device window reads as, is illegal. -/
theorem decodeWord_zero : decodeWord 0 = .error (.unknownOpcode 0) := by decide

/-- A fetch that succeeds is recorded, whatever becomes of the word (10_state.md R32). -/
theorem exists_step_of_fetch {w : Word} (hs : s.halted = false) (hf : s.fetch = some w) :
    ∃ t, step s = .next t ∧ t.currentInstruction = w := by
  cases hd : decodeWord w with
  | error e => exact ⟨_, step_decodeFault hs hf hd, rfl⟩
  | ok i =>
    obtain ⟨t, ht, heffect⟩ := exec_effect i (s.recordFetch w)
    exact ⟨t, (step_exec hs hf hd).trans ht, currentInstruction_of_effect heffect⟩

end

/-- Settles O15, by where pc lies: a fetch from RAM is recorded, one from the device window gives the illegal
word 0, and every other is a fault. -/
theorem fetchRecordsOrStops : Obligations.FetchRecordsOrStops := by
  intro s hs
  refine ⟨fun hlow hhigh ha => ?ram, fun hlow hhigh => ?window, fun hw hr => ?fault⟩
  case ram => exact exists_step_of_fetch hs (fetch_of_ram ((inRam_iff s _).mpr ⟨hlow, hhigh⟩) ha)
  case window =>
    have hf := fetch_of_window ((inDeviceWindow_iff s.pc).mpr ⟨hlow, hhigh⟩)
    exact ⟨_, step_decodeFault hs hf decodeWord_zero, rfl, stoppedWith_takeStop (s.recordFetch 0) _⟩
  case fault =>
    have hf := fetch_eq_none (window_eq_false hw) (hr.imp_left inRam_eq_false)
    exact ⟨_, step_fetchFault hs hf, stoppedWith_takeStop s _⟩

/-- The decoder reads an instruction's four bytes as a little-endian word. -/
theorem decodeWord_of_decodeBytes {b0 b1 b2 b3 : Byte} {i : Instr} {rest : List Byte}
    (h : decodeBytes [b0, b1, b2, b3] = .ok (i, rest)) :
    decodeWord (wordOfBytes b0 b1 b2 b3) = .ok i := by
  cases hd : decodeWord (wordOfBytes b0 b1 b2 b3) with
  | error e =>
    simp only [decodeBytes, hd] at h
    cases h
  | ok j =>
    simp only [decodeBytes, hd] at h
    cases h
    rfl

/-- Settles O11: the fetch from an aligned RAM address is the word of the four bytes there. -/
theorem stepRunsTheDecodedInstruction : Obligations.StepRunsTheDecodedInstruction := by
  intro s i hs hlow hhigh ha hd
  exact step_exec hs (fetch_of_ram ((inRam_iff s _).mpr ⟨hlow, hhigh⟩) ha) (decodeWord_of_decodeBytes hd)

/-- Settles O17: a fetch from the device window ends in a decode fault and one from elsewhere in a fetch fault,
so only an aligned RAM address is left. -/
theorem executedInstructionsAreAligned : Obligations.ExecutedInstructionsAreAligned := by
  intro s t hs _ h hfetch hdecode
  rcases running_step_cases hs h with ⟨-, rfl⟩ | ⟨w, e, -, -, rfl⟩ | ⟨w, i, hf, hd, -⟩
  · exact absurd rfl hfetch
  · exact absurd rfl hdecode
  · rcases fetch_cases s with ⟨-, e⟩ | ⟨-, -, e⟩ | ⟨hr, ha, -⟩
    · obtain rfl := Option.some.inj (e.symm.trans hf)
      rw [decodeWord_zero] at hd
      cases hd
    · rw [e] at hf
      cases hf
    · exact ⟨ha, (inRam_iff s s.pc).mp hr⟩

/-! ## Stops and events -/

/-- Settles O18, by the ways a step can halt a running core: each is a stop taken on a state that differs from s
in current_instruction alone, but EBREAK's, where pc + 4 has been committed too. -/
theorem stopsAreExact : Obligations.StopsAreExact := by
  intro s t hs h ht
  refine ⟨stopConsistent_of_step hs h ht, ?_⟩
  rcases running_step_cases hs h with ⟨-, rfl⟩ | ⟨w, e, -, -, rfl⟩ | ⟨w, i, -, -, he⟩
  · exact ⟨sameRegs_of_regs rfl, sameRam_of_fields rfl rfl, rfl, fun _ => rfl, nofun, fun _ => rfl⟩
  · exact ⟨sameRegs_of_regs rfl, sameRam_of_fields rfl rfl, rfl, fun _ => rfl, nofun, nofun⟩
  rcases halt_cases_of_exec (s := s.recordFetch w) hs he ht with
    ⟨a, n, -, rfl⟩ | ⟨a, n, -, rfl⟩ | ⟨a, n, -, rfl⟩ | ⟨-, rfl⟩
  · exact ⟨sameRegs_of_regs rfl, sameRam_of_fields rfl rfl, rfl, fun _ => rfl, nofun, nofun⟩
  · exact ⟨sameRegs_of_regs rfl, sameRam_of_fields rfl rfl, rfl, fun _ => rfl, nofun, nofun⟩
  · exact ⟨sameRegs_of_regs rfl, sameRam_of_fields rfl rfl, rfl, fun _ => rfl, nofun, nofun⟩
  · exact ⟨sameRegs_of_regs rfl, sameRam_of_fields rfl rfl, rfl, fun hne => absurd rfl hne, fun _ => rfl, nofun⟩

/-- Settles O20, by the ways an instruction can halt a running core. -/
theorem stopCausesByInstruction : Obligations.StopCausesByInstruction := by
  intro i s t hs h ht
  rcases halt_cases_of_exec hs h ht with ⟨a, n, hi, rfl⟩ | ⟨a, n, hi, rfl⟩ | ⟨a, n, hi, rfl⟩ | ⟨hi, rfl⟩
  · exact .inr (.inl ⟨rfl, hi⟩)
  · exact .inr (.inr (.inl ⟨rfl, rfl, hi⟩))
  · exact .inr (.inr (.inr ⟨rfl, rfl, hi⟩))
  · exact .inl ⟨rfl, hi⟩

/-- An instruction's next state has the output as before, or it is a store's, with one more event. -/
theorem output_of_effect {i : Instr} {s t : State} (h : ExecEffect i s t) :
    t.output = s.output ∨
      (t.halted = s.halted ∧ i.mnemonic ∈ storeMnemonics ∧ ∃ e, t.output = s.output ++ [e]) := by
  cases h with
  | emit c n v hi => exact .inr ⟨rfl, hi, _, rfl⟩
  | commit rd v n => exact .inl (commit_output s rd v n)
  | commitPc n => exact .inl rfl
  | storeRam a v n hi ha ha' => exact .inl rfl
  | misaligned a n hi hr => exact .inl rfl
  | fatalRead a n hi hr => exact .inl rfl
  | fatalWrite a n hi hw => exact .inl rfl
  | ebreak hi => exact .inl rfl

/-- Settles O21: of all a step can do, only a store to a device word appends to the output. -/
theorem stepEmitsAtMostOneEvent : Obligations.StepEmitsAtMostOneEvent := by
  intro s t h
  cases hs : s.halted with
  | true =>
    rw [step_halted hs] at h
    cases h
    exact .inl rfl
  | false =>
    rcases running_step_cases hs h with ⟨-, rfl⟩ | ⟨w, e, -, -, rfl⟩ | ⟨w, i, hf, hd, he⟩
    · exact .inl rfl
    · exact .inl rfl
    · rcases output_of_effect (effect_of_exec he) with hout | ⟨hhalted, hi, e, hout⟩
      · exact .inl hout
      · exact .inr ⟨hhalted.trans hs, e, hout, w, i, hf, hd, hi⟩

end Sys2Proof.Machine
end

section
/-! Fields that no instruction reads (10_state.md R32, 20_memory.md R48): the last fetched word and the record of
output events, what each shared operation does to a state that differs in them, and the two obligations they
settle. -/

namespace Sys2Proof.Machine

/-- s with another last fetched word and another record of output events. -/
def State.withRecords (s : State) (w : Word) (o : List OutputEvent) : State :=
  { s with currentInstruction := w, output := o }

/-- On s the first result is a next state that keeps the last fetched word and appends some events; on s with
other records, the second is the same next state with those records, and the same events appended. -/
def IgnoresRecords (s : State) (w : Word) (o : List OutputEvent) (r r' : StepResult) : Prop :=
  ∃ t d, r = .next t ∧ t.currentInstruction = s.currentInstruction ∧ t.output = s.output ++ d ∧
    r' = .next (t.withRecords w (o ++ d))

section
variable (s : State) (w : Word) (o : List OutputEvent)

theorem writeReg_withRecords (rd : RegIdx) (v : Word) :
    (s.withRecords w o).writeReg rd v = (s.writeReg rd v).withRecords w o := by
  unfold State.writeReg
  split <;> rfl

theorem busRead_withRecords (a : Word) (n : Width) : (s.withRecords w o).busRead a n = s.busRead a n :=
  busRead_congr rfl rfl a n

/-- The events of a next state that appends none. -/
theorem ignoresRecords_of_eq {t : State} {r' : StepResult} (hw : t.currentInstruction = s.currentInstruction)
    (ho : t.output = s.output) (h : r' = .next (t.withRecords w o)) : IgnoresRecords s w o (.next t) r' :=
  ⟨t, [], rfl, hw, by rw [ho, List.append_nil], by rw [h, List.append_nil]⟩

theorem ignoresRecords_commit (rd : RegIdx) (v n : Word) :
    IgnoresRecords s w o (.next (s.commit rd v n)) (.next ((s.withRecords w o).commit rd v n)) :=
  ignoresRecords_of_eq s w o (commit_currentInstruction s rd v n) (commit_output s rd v n)
    (by rw [State.commit, writeReg_withRecords]; rfl)

theorem ignoresRecords_commitPc (n : Word) :
    IgnoresRecords s w o (.next (s.commitPc n)) (.next ((s.withRecords w o).commitPc n)) :=
  ignoresRecords_of_eq s w o rfl rfl rfl

theorem ignoresRecords_takeStop (st : StopStatus) :
    IgnoresRecords s w o (.next (s.takeStop st)) (.next ((s.withRecords w o).takeStop st)) :=
  ignoresRecords_of_eq s w o rfl rfl rfl

theorem ignoresRecords_load (n : Width) (ext : Word → Word) (rd rs1 : RegIdx) (imm : BitVec 12) :
    IgnoresRecords s w o (s.load n ext rd rs1 imm) ((s.withRecords w o).load n ext rd rs1 imm) := by
  have hread := busRead_withRecords s w o (s.loadAddress rs1 imm) n
  rcases load_cases s n ext rd rs1 imm with ⟨v, hr, e⟩ | ⟨hr, e⟩ | ⟨hr, e⟩
  · rw [e, load_of_busRead_ok (s := s.withRecords w o) (hread.trans hr)]
    exact ignoresRecords_commit s w o rd (ext v) (s.pc + 4)
  · rw [e, load_of_busRead_misaligned (s := s.withRecords w o) (hread.trans hr)]
    exact ignoresRecords_takeStop s w o _
  · rw [e, load_of_busRead_fatal (s := s.withRecords w o) (hread.trans hr)]
    exact ignoresRecords_takeStop s w o _

theorem ignoresRecords_store (n : Width) (rs2 rs1 : RegIdx) (imm : BitVec 12) :
    IgnoresRecords s w o (s.store n rs2 rs1 imm) ((s.withRecords w o).store n rs2 rs1 imm) := by
  rcases busWrite_cases s (s.storeAddress rs1 imm) n (truncateTo (s.readReg rs2) n) with
    ⟨c, hc, h⟩ | ⟨hr, ha, h⟩ | ⟨-, -, h⟩
  · rw [store_of_busWrite_some h,
      store_of_busWrite_some (busWrite_device (s.withRecords w o) n _ hc)]
    exact ⟨_, _, rfl, rfl, rfl, rfl⟩
  · rw [store_of_busWrite_some h,
      store_of_busWrite_some (busWrite_ram (s := s.withRecords w o) _ hr ha)]
    exact ignoresRecords_of_eq s w o rfl rfl rfl
  · rw [store_of_busWrite_none (h _),
      store_of_busWrite_none (s := s.withRecords w o) (busWrite_eq_none_of_ramWords (s := s) rfl (h _))]
    exact ignoresRecords_takeStop s w o _

/-- No instruction reads either record: all it reads is registers, pc, RAM and RAM_SIZE. -/
theorem ignoresRecords_exec (i : Instr) :
    IgnoresRecords s w o (exec i s) (exec i (s.withRecords w o)) := by
  cases i with
  | lui rd imm => exact ignoresRecords_commit ..
  | auipc rd imm => exact ignoresRecords_commit ..
  | jal rd offset => exact ignoresRecords_commit ..
  | jalr rd rs1 imm => exact ignoresRecords_commit ..
  | beq rs1 rs2 offset => exact ignoresRecords_commitPc ..
  | bne rs1 rs2 offset => exact ignoresRecords_commitPc ..
  | blt rs1 rs2 offset => exact ignoresRecords_commitPc ..
  | bge rs1 rs2 offset => exact ignoresRecords_commitPc ..
  | bltu rs1 rs2 offset => exact ignoresRecords_commitPc ..
  | bgeu rs1 rs2 offset => exact ignoresRecords_commitPc ..
  | lb rd rs1 imm => exact ignoresRecords_load ..
  | lh rd rs1 imm => exact ignoresRecords_load ..
  | lw rd rs1 imm => exact ignoresRecords_load ..
  | lbu rd rs1 imm => exact ignoresRecords_load ..
  | lhu rd rs1 imm => exact ignoresRecords_load ..
  | sb rs2 rs1 imm => exact ignoresRecords_store ..
  | sh rs2 rs1 imm => exact ignoresRecords_store ..
  | sw rs2 rs1 imm => exact ignoresRecords_store ..
  | addi rd rs1 imm => exact ignoresRecords_commit ..
  | slti rd rs1 imm => exact ignoresRecords_commit ..
  | sltiu rd rs1 imm => exact ignoresRecords_commit ..
  | xori rd rs1 imm => exact ignoresRecords_commit ..
  | ori rd rs1 imm => exact ignoresRecords_commit ..
  | andi rd rs1 imm => exact ignoresRecords_commit ..
  | slli rd rs1 shamt => exact ignoresRecords_commit ..
  | srli rd rs1 shamt => exact ignoresRecords_commit ..
  | srai rd rs1 shamt => exact ignoresRecords_commit ..
  | add rd rs1 rs2 => exact ignoresRecords_commit ..
  | sub rd rs1 rs2 => exact ignoresRecords_commit ..
  | sll rd rs1 rs2 => exact ignoresRecords_commit ..
  | slt rd rs1 rs2 => exact ignoresRecords_commit ..
  | sltu rd rs1 rs2 => exact ignoresRecords_commit ..
  | xor rd rs1 rs2 => exact ignoresRecords_commit ..
  | srl rd rs1 rs2 => exact ignoresRecords_commit ..
  | sra rd rs1 rs2 => exact ignoresRecords_commit ..
  | or rd rs1 rs2 => exact ignoresRecords_commit ..
  | and rd rs1 rs2 => exact ignoresRecords_commit ..
  | mul rd rs1 rs2 => exact ignoresRecords_commit ..
  | mulh rd rs1 rs2 => exact ignoresRecords_commit ..
  | mulhsu rd rs1 rs2 => exact ignoresRecords_commit ..
  | mulhu rd rs1 rs2 => exact ignoresRecords_commit ..
  | div rd rs1 rs2 => exact ignoresRecords_commit ..
  | divu rd rs1 rs2 => exact ignoresRecords_commit ..
  | rem rd rs1 rs2 => exact ignoresRecords_commit ..
  | remu rd rs1 rs2 => exact ignoresRecords_commit ..
  | ecall => exact ignoresRecords_commit ..
  | ebreak => exact ignoresRecords_of_eq s w o rfl rfl rfl

end

/-- Settles O23: another last fetched word, and the same record of events. -/
theorem currentInstructionIsNeverRead : Obligations.CurrentInstructionIsNeverRead := by
  intro i s w
  obtain ⟨t, d, h, hci, hout, h'⟩ := ignoresRecords_exec s w s.output i
  rw [← hout] at h'
  exact ⟨t, h, hci, h'⟩

/-- Settles O22: the step fetches and decodes the same word, and the instruction ignores the record of
events. -/
theorem outputRecordIsNeverRead : Obligations.OutputRecordIsNeverRead := by
  intro s o
  have hfetch : ({ s with output := o } : State).fetch = s.fetch := fetch_congr rfl rfl rfl
  rcases step_cases s with ⟨hs, h⟩ | ⟨hs, hf, h⟩ | ⟨w, e, hs, hf, hd, h⟩ | ⟨w, i, hs, hf, hd, h⟩
  · exact ⟨_, [], h, (List.append_nil _).symm, by rw [List.append_nil]; exact step_halted hs⟩
  · exact ⟨_, [], h, (List.append_nil _).symm, by
      rw [List.append_nil]; exact step_fetchFault hs (hfetch.trans hf)⟩
  · exact ⟨_, [], h, (List.append_nil _).symm, by
      rw [List.append_nil]; exact step_decodeFault hs (hfetch.trans hf) hd⟩
  · obtain ⟨t, d, ht, hci, hout, h'⟩ := ignoresRecords_exec (s.recordFetch w) w o i
    obtain rfl : t.currentInstruction = w := hci
    exact ⟨t, d, h.trans ht, hout, (step_exec (s := { s with output := o }) hs (hfetch.trans hf) hd).trans h'⟩

end Sys2Proof.Machine
end
